-- ==== Sys2Proof/Word.lean ====
section
/-! DEFINITION. The words of the machine (spec 00_scope.md R7): bytes, 16-bit words, 12-bit addresses, register numbers. -/

namespace Sys2Proof

/-- A byte, 8 bits (R7). -/
abbrev Byte := BitVec 8

/-- A word, 16 bits (R7): an instruction word, `PC`, `I`, a stack entry. -/
abbrev Word := BitVec 16

/-- The `nnn` field, a 12-bit address (R71). -/
abbrev Addr12 := BitVec 12

/-- The number of a general register `V0` to `VF` (R20); the `x` and `y` fields. -/
abbrev RegIdx := Fin 16

end Sys2Proof
end

