-- ==== Sys2Proof/Config.lean ====
section
/-! DEFINITION. What the hardware fixes (spec 00_scope.md R6) and the model's one free value.
The two parameters of R6 that have a default, FONT_ROM and DRW_CLEARS_VF, stand in Machine/Params.lean, and in State as its field `params`. -/

namespace Sys2Proof.Config

/-- MEM_SIZE (R6). -/
abbrev memSize : Nat := 4096

/-- ENTRY (R6): the reset PC and the load address. -/
abbrev entry : Nat := 0x200

/-- MAX_IMAGE (R6). -/
abbrev maxImage : Nat := memSize - entry

/-- FONT_BASE (R6). -/
abbrev fontBase : Nat := 0x050

/-- The last byte of the font (R6: 16 glyphs of 5 bytes from 0x050, so 0x09F). -/
abbrev fontLast : Nat := 0x09F

/-- FONT_GLYPH_BYTES (R6). -/
abbrev glyphBytes : Nat := 5

/-- SCREEN_W (R6). -/
abbrev screenW : Nat := 64

/-- SCREEN_H (R6). -/
abbrev screenH : Nat := 32

/-- MAX_SPRITE_ROWS (R6). -/
abbrev maxSpriteRows : Nat := 15

/-- STACK_DEPTH (R6). -/
abbrev stackDepth : Nat := 16

/-- RNG (R6, R142; 92_eei_decisions.md D16): the byte that draw number `n` supplies.
A free value: it has no body, so nothing can be proved of it beyond what holds for every byte
(log entry 2). -/
opaque randomByte : Nat → Byte

end Sys2Proof.Config
end

