-- ==== Sys2Proof/Syntax.lean ====
section
/-! DEFINITION. The 34 instructions of spec/opcode_table.json (00_scope.md R2), in the table's order, with the fields of 30_encoding.md R71. -/

namespace Sys2Proof

/-- One constructor for each row of the opcode table; the docstring gives pattern, assembly and rule. -/
inductive Instr where
  /-- `00E0` CLS (R100). -/
  | cls
  /-- `00EE` RET (R111). -/
  | ret
  /-- `1nnn` JP addr (R112). -/
  | jp (nnn : Addr12)
  /-- `2nnn` CALL addr (R113). -/
  | call (nnn : Addr12)
  /-- `3xkk` SE Vx, byte (R114). -/
  | seByte (x : RegIdx) (kk : Byte)
  /-- `4xkk` SNE Vx, byte (R115). -/
  | sneByte (x : RegIdx) (kk : Byte)
  /-- `5xy0` SE Vx, Vy (R116). -/
  | seReg (x y : RegIdx)
  /-- `9xy0` SNE Vx, Vy (R117). -/
  | sneReg (x y : RegIdx)
  /-- `6xkk` LD Vx, byte (R131). -/
  | ldByte (x : RegIdx) (kk : Byte)
  /-- `7xkk` ADD Vx, byte (R132). -/
  | addByte (x : RegIdx) (kk : Byte)
  /-- `8xy0` LD Vx, Vy (R133). -/
  | ldReg (x y : RegIdx)
  /-- `8xy1` OR Vx, Vy (R134). -/
  | orReg (x y : RegIdx)
  /-- `8xy2` AND Vx, Vy (R135). -/
  | andReg (x y : RegIdx)
  /-- `8xy3` XOR Vx, Vy (R136). -/
  | xorReg (x y : RegIdx)
  /-- `8xy4` ADD Vx, Vy (R137). -/
  | addReg (x y : RegIdx)
  /-- `8xy5` SUB Vx, Vy (R138). -/
  | subReg (x y : RegIdx)
  /-- `8xy6` SHR Vx (R139). The field `y` is decoded and has no effect (R74); it is kept so that no bit of the word is lost. -/
  | shr (x y : RegIdx)
  /-- `8xy7` SUBN Vx, Vy (R140). -/
  | subnReg (x y : RegIdx)
  /-- `8xyE` SHL Vx (R141). The field `y` is decoded and has no effect (R74). -/
  | shl (x y : RegIdx)
  /-- `Annn` LD I, addr (R150). -/
  | ldI (nnn : Addr12)
  /-- `Bnnn` JP V0, addr (R118). -/
  | jpV0 (nnn : Addr12)
  /-- `Cxkk` RND Vx, byte (R142). -/
  | rnd (x : RegIdx) (kk : Byte)
  /-- `Dxyn` DRW Vx, Vy, nibble (R101); `n` is the number of rows, 0 to 15 (WellFormed.lean). -/
  | drw (x y : RegIdx) (n : Nat)
  /-- `Ex9E` SKP Vx (R171). -/
  | skp (x : RegIdx)
  /-- `ExA1` SKNP Vx (R172). -/
  | sknp (x : RegIdx)
  /-- `Fx07` LD Vx, DT (R173). -/
  | ldVxDt (x : RegIdx)
  /-- `Fx0A` LD Vx, K (R174). -/
  | ldVxK (x : RegIdx)
  /-- `Fx15` LD DT, Vx (R176). -/
  | ldDtVx (x : RegIdx)
  /-- `Fx18` LD ST, Vx (R177). -/
  | ldStVx (x : RegIdx)
  /-- `Fx1E` ADD I, Vx (R151). -/
  | addI (x : RegIdx)
  /-- `Fx29` LD F, Vx (R152). -/
  | ldF (x : RegIdx)
  /-- `Fx33` BCD Vx (R153). -/
  | bcd (x : RegIdx)
  /-- `Fx55` LD [I], Vx (R154). -/
  | storeRegs (x : RegIdx)
  /-- `Fx65` LD Vx, [I] (R155). -/
  | loadRegs (x : RegIdx)
  deriving DecidableEq, Repr

end Sys2Proof
end

