-- ==== Sys2Proof/WellFormed.lean ====
section
/-! DEFINITION. Which terms of `Instr` are instructions: the one bound that a field's type does not carry (30_encoding.md R71, R73). -/

namespace Sys2Proof

/-- The row count of `Dxyn` is the nibble `n`, 0 to MAX_SPRITE_ROWS (R6, R73).
Every other field's range is its type: register numbers `Fin 16`, `kk` 8 bits, `nnn` 12 bits. -/
def Instr.wellFormed : Instr → Bool
  | .drw _ _ n => decide (n ≤ Config.maxSpriteRows)
  | .cls | .ret | .jp _ | .call _ | .seByte _ _ | .sneByte _ _ | .seReg _ _ | .sneReg _ _
  | .ldByte _ _ | .addByte _ _ | .ldReg _ _ | .orReg _ _ | .andReg _ _ | .xorReg _ _
  | .addReg _ _ | .subReg _ _ | .shr _ _ | .subnReg _ _ | .shl _ _ | .ldI _ | .jpV0 _
  | .rnd _ _ | .skp _ | .sknp _ | .ldVxDt _ | .ldVxK _ | .ldDtVx _ | .ldStVx _ | .addI _
  | .ldF _ | .bcd _ | .storeRegs _ | .loadRegs _ => true

end Sys2Proof
end

