-- ==== Sys2Proof/Decode.lean ====
section
/-! DEFINITION. Decoding (30_encoding.md R70 to R78), total on every word and on any bytes; then the encoder, written from the formats of R72, and the opcode table's match and mask of each row. -/

namespace Sys2Proof

/-! ### Fields (R71) -/

/-- `w[15:12]`, the operation family. -/
def fieldFamily (w : Word) : Fin 16 := (w.extractLsb' 12 4).toFin

/-- `w[11:8]`, the register number `x`. -/
def fieldX (w : Word) : RegIdx := (w.extractLsb' 8 4).toFin

/-- `w[7:4]`, the register number `y`. -/
def fieldY (w : Word) : RegIdx := (w.extractLsb' 4 4).toFin

/-- `w[3:0]`, the nibble `n`. -/
def fieldN (w : Word) : Fin 16 := (w.extractLsb' 0 4).toFin

/-- `w[7:0]`, the immediate byte `kk`. -/
def fieldKK (w : Word) : Byte := w.extractLsb' 0 8

/-- `w[11:0]`, the address `nnn`. -/
def fieldNNN (w : Word) : Addr12 := w.extractLsb' 0 12

/-! ### Decode -/

/-- Why bytes are no instruction. -/
inductive DecodeError where
  /-- Fewer than the two bytes every instruction has (R70). -/
  | truncated
  /-- `DecodeFailure`: the word matches no row of the opcode table (R77). -/
  | illegalWord (w : Word)
  deriving DecidableEq, Repr

/-- Family 8: the register-register group, selected by `n` (R75). -/
def decodeFamily8 (w : Word) : Except DecodeError Instr :=
  match fieldN w with
  | 0x0 => .ok (.ldReg (fieldX w) (fieldY w))
  | 0x1 => .ok (.orReg (fieldX w) (fieldY w))
  | 0x2 => .ok (.andReg (fieldX w) (fieldY w))
  | 0x3 => .ok (.xorReg (fieldX w) (fieldY w))
  | 0x4 => .ok (.addReg (fieldX w) (fieldY w))
  | 0x5 => .ok (.subReg (fieldX w) (fieldY w))
  | 0x6 => .ok (.shr (fieldX w) (fieldY w))
  | 0x7 => .ok (.subnReg (fieldX w) (fieldY w))
  | 0xE => .ok (.shl (fieldX w) (fieldY w))
  | _ => .error (.illegalWord w)

/-- Family E: the key tests, selected by `kk` (R75). -/
def decodeFamilyE (w : Word) : Except DecodeError Instr :=
  match fieldKK w with
  | 0x9E#8 => .ok (.skp (fieldX w))
  | 0xA1#8 => .ok (.sknp (fieldX w))
  | _ => .error (.illegalWord w)

/-- Family F, selected by `kk` (R75). -/
def decodeFamilyF (w : Word) : Except DecodeError Instr :=
  match fieldKK w with
  | 0x07#8 => .ok (.ldVxDt (fieldX w))
  | 0x0A#8 => .ok (.ldVxK (fieldX w))
  | 0x15#8 => .ok (.ldDtVx (fieldX w))
  | 0x18#8 => .ok (.ldStVx (fieldX w))
  | 0x1E#8 => .ok (.addI (fieldX w))
  | 0x29#8 => .ok (.ldF (fieldX w))
  | 0x33#8 => .ok (.bcd (fieldX w))
  | 0x55#8 => .ok (.storeRegs (fieldX w))
  | 0x65#8 => .ok (.loadRegs (fieldX w))
  | _ => .error (.illegalWord w)

/-- `Decode(w)` (R75), with the fixed bits of the table's patterns (90_conflicts.md C1, C3). -/
def decodeWord (w : Word) : Except DecodeError Instr :=
  match fieldFamily w with
  | 0x0 =>
    if w = 0x00E0#16 then .ok .cls
    else if w = 0x00EE#16 then .ok .ret
    else .error (.illegalWord w)
  | 0x1 => .ok (.jp (fieldNNN w))
  | 0x2 => .ok (.call (fieldNNN w))
  | 0x3 => .ok (.seByte (fieldX w) (fieldKK w))
  | 0x4 => .ok (.sneByte (fieldX w) (fieldKK w))
  | 0x5 => if fieldN w = 0 then .ok (.seReg (fieldX w) (fieldY w)) else .error (.illegalWord w)
  | 0x6 => .ok (.ldByte (fieldX w) (fieldKK w))
  | 0x7 => .ok (.addByte (fieldX w) (fieldKK w))
  | 0x8 => decodeFamily8 w
  | 0x9 => if fieldN w = 0 then .ok (.sneReg (fieldX w) (fieldY w)) else .error (.illegalWord w)
  | 0xA => .ok (.ldI (fieldNNN w))
  | 0xB => .ok (.jpV0 (fieldNNN w))
  | 0xC => .ok (.rnd (fieldX w) (fieldKK w))
  | 0xD => .ok (.drw (fieldX w) (fieldY w) (fieldN w).val)
  | 0xE => decodeFamilyE w
  | _ => decodeFamilyF w -- 0xF, the one family left of the sixteen

/-- The two bytes of a word as memory holds them, high byte first (20_memory.md R56). -/
def wordBytes (w : Word) : List Byte := [w.extractLsb' 8 8, w.extractLsb' 0 8]

/-- The word two bytes form, high byte first (R56). -/
def wordOfBytes (hi lo : Byte) : Word := hi ++ lo

/-- Reads one instruction from the front of a byte sequence (R70: always two bytes). -/
def decodeBytes : List Byte → Except DecodeError (Instr × List Byte)
  | hi :: lo :: rest =>
    match decodeWord (wordOfBytes hi lo) with
    | .ok i => .ok (i, rest)
    | .error e => .error e
  | [_] => .error .truncated
  | [] => .error .truncated

/-- The 16-bit word that `nbits` bits of the opcode table's numbering stand for. -/
def tableWord (nbits w : Nat) : Word := BitVec.ofNat 16 (w % 2 ^ nbits)

/-- What the decoder reads from a word numbered as spec/opcode_table.json numbers it. -/
def decodeTableWord (nbits w : Nat) : Option Instr :=
  match decodeBytes (wordBytes (tableWord nbits w)) with
  | .ok (i, _) => some i
  | .error _ => none

/-! ### Encode (R72) -/

/-- A register number as the four bits of its field. -/
def regBits (x : RegIdx) : BitVec 4 := BitVec.ofFin x

/-- Format `A`: `ffff nnnn nnnn nnnn`. -/
def encodeA (f : BitVec 4) (nnn : Addr12) : Word := f ++ nnn

/-- Format `XK`: `ffff xxxx kkkk kkkk`. -/
def encodeXK (f : BitVec 4) (x : RegIdx) (kk : Byte) : Word := f ++ regBits x ++ kk

/-- Formats `XY` and `XYN`: `ffff xxxx yyyy ssss`. -/
def encodeXY (f : BitVec 4) (x y : RegIdx) (n : BitVec 4) : Word :=
  f ++ regBits x ++ regBits y ++ n

/-- Format `X`: `ffff xxxx ssss ssss`. -/
def encodeX (f : BitVec 4) (x : RegIdx) (sub : Byte) : Word := f ++ regBits x ++ sub

/-- The word of an instruction (R72, R75). -/
def encode : Instr → Word
  | .cls => 0x00E0#16
  | .ret => 0x00EE#16
  | .jp nnn => encodeA 0x1#4 nnn
  | .call nnn => encodeA 0x2#4 nnn
  | .seByte x kk => encodeXK 0x3#4 x kk
  | .sneByte x kk => encodeXK 0x4#4 x kk
  | .seReg x y => encodeXY 0x5#4 x y 0x0#4
  | .sneReg x y => encodeXY 0x9#4 x y 0x0#4
  | .ldByte x kk => encodeXK 0x6#4 x kk
  | .addByte x kk => encodeXK 0x7#4 x kk
  | .ldReg x y => encodeXY 0x8#4 x y 0x0#4
  | .orReg x y => encodeXY 0x8#4 x y 0x1#4
  | .andReg x y => encodeXY 0x8#4 x y 0x2#4
  | .xorReg x y => encodeXY 0x8#4 x y 0x3#4
  | .addReg x y => encodeXY 0x8#4 x y 0x4#4
  | .subReg x y => encodeXY 0x8#4 x y 0x5#4
  | .shr x y => encodeXY 0x8#4 x y 0x6#4
  | .subnReg x y => encodeXY 0x8#4 x y 0x7#4
  | .shl x y => encodeXY 0x8#4 x y 0xE#4
  | .ldI nnn => encodeA 0xA#4 nnn
  | .jpV0 nnn => encodeA 0xB#4 nnn
  | .rnd x kk => encodeXK 0xC#4 x kk
  | .drw x y n => encodeXY 0xD#4 x y (BitVec.ofNat 4 n)
  | .skp x => encodeX 0xE#4 x 0x9E#8
  | .sknp x => encodeX 0xE#4 x 0xA1#8
  | .ldVxDt x => encodeX 0xF#4 x 0x07#8
  | .ldVxK x => encodeX 0xF#4 x 0x0A#8
  | .ldDtVx x => encodeX 0xF#4 x 0x15#8
  | .ldStVx x => encodeX 0xF#4 x 0x18#8
  | .addI x => encodeX 0xF#4 x 0x1E#8
  | .ldF x => encodeX 0xF#4 x 0x29#8
  | .bcd x => encodeX 0xF#4 x 0x33#8
  | .storeRegs x => encodeX 0xF#4 x 0x55#8
  | .loadRegs x => encodeX 0xF#4 x 0x65#8

/-- The (match, mask) of an instruction's row, copied from spec/opcode_table.json. -/
def tableRow : Instr → Word × Word
  | .cls => (0x00E0#16, 0xFFFF#16)
  | .ret => (0x00EE#16, 0xFFFF#16)
  | .jp _ => (0x1000#16, 0xF000#16)
  | .call _ => (0x2000#16, 0xF000#16)
  | .seByte _ _ => (0x3000#16, 0xF000#16)
  | .sneByte _ _ => (0x4000#16, 0xF000#16)
  | .seReg _ _ => (0x5000#16, 0xF00F#16)
  | .sneReg _ _ => (0x9000#16, 0xF00F#16)
  | .ldByte _ _ => (0x6000#16, 0xF000#16)
  | .addByte _ _ => (0x7000#16, 0xF000#16)
  | .ldReg _ _ => (0x8000#16, 0xF00F#16)
  | .orReg _ _ => (0x8001#16, 0xF00F#16)
  | .andReg _ _ => (0x8002#16, 0xF00F#16)
  | .xorReg _ _ => (0x8003#16, 0xF00F#16)
  | .addReg _ _ => (0x8004#16, 0xF00F#16)
  | .subReg _ _ => (0x8005#16, 0xF00F#16)
  | .shr _ _ => (0x8006#16, 0xF00F#16)
  | .subnReg _ _ => (0x8007#16, 0xF00F#16)
  | .shl _ _ => (0x800E#16, 0xF00F#16)
  | .ldI _ => (0xA000#16, 0xF000#16)
  | .jpV0 _ => (0xB000#16, 0xF000#16)
  | .rnd _ _ => (0xC000#16, 0xF000#16)
  | .drw _ _ _ => (0xD000#16, 0xF000#16)
  | .skp _ => (0xE09E#16, 0xF0FF#16)
  | .sknp _ => (0xE0A1#16, 0xF0FF#16)
  | .ldVxDt _ => (0xF007#16, 0xF0FF#16)
  | .ldVxK _ => (0xF00A#16, 0xF0FF#16)
  | .ldDtVx _ => (0xF015#16, 0xF0FF#16)
  | .ldStVx _ => (0xF018#16, 0xF0FF#16)
  | .addI _ => (0xF01E#16, 0xF0FF#16)
  | .ldF _ => (0xF029#16, 0xF0FF#16)
  | .bcd _ => (0xF033#16, 0xF0FF#16)
  | .storeRegs _ => (0xF055#16, 0xF0FF#16)
  | .loadRegs _ => (0xF065#16, 0xF0FF#16)

/-- Every (match, mask) of spec/opcode_table.json, in its order. -/
def opcodeRows : List (Word × Word) :=
  [(0x00E0#16, 0xFFFF#16), (0x00EE#16, 0xFFFF#16), (0x1000#16, 0xF000#16), (0x2000#16, 0xF000#16),
   (0x3000#16, 0xF000#16), (0x4000#16, 0xF000#16), (0x5000#16, 0xF00F#16), (0x9000#16, 0xF00F#16),
   (0x6000#16, 0xF000#16), (0x7000#16, 0xF000#16)] ++
  [(0x8000#16, 0xF00F#16), (0x8001#16, 0xF00F#16), (0x8002#16, 0xF00F#16), (0x8003#16, 0xF00F#16),
   (0x8004#16, 0xF00F#16), (0x8005#16, 0xF00F#16), (0x8006#16, 0xF00F#16), (0x8007#16, 0xF00F#16),
   (0x800E#16, 0xF00F#16)] ++
  [(0xA000#16, 0xF000#16), (0xB000#16, 0xF000#16), (0xC000#16, 0xF000#16), (0xD000#16, 0xF000#16),
   (0xE09E#16, 0xF0FF#16), (0xE0A1#16, 0xF0FF#16)] ++
  [(0xF007#16, 0xF0FF#16), (0xF00A#16, 0xF0FF#16), (0xF015#16, 0xF0FF#16), (0xF018#16, 0xF0FF#16),
   (0xF01E#16, 0xF0FF#16), (0xF029#16, 0xF0FF#16), (0xF033#16, 0xF0FF#16), (0xF055#16, 0xF0FF#16),
   (0xF065#16, 0xF0FF#16)]

/-- The word `w` lies in the row. -/
def matchesRow (w : Word) (row : Word × Word) : Bool := w &&& row.2 == row.1

end Sys2Proof
end

