-- ==== Sys2Proof/Machine/Params.lean ====
section
/-! DEFINITION. The two parameters of 00_scope.md R6 that have a default, FONT_ROM and DRW_CLEARS_VF, and their defaults. A core takes them as the field `params` of its state (93_implementation_defined.md U13, U16): every meaning reads them there, and no step changes them. -/

namespace Sys2Proof.Machine

/-- The 80 font bytes, five for each digit (00_scope.md R6). -/
abbrev FontRom := Vector Byte 80

/-- The named parameters of a core (00_scope.md R6, R12). -/
structure Params where
  /-- FONT_ROM (92_eei_decisions.md D13): what the font holds at reset. -/
  fontRom : FontRom
  /-- DRW_CLEARS_VF (92_eei_decisions.md D11): a `Dxyn` with no collision writes VF = 0; where false it leaves VF alone. -/
  drwClearsVf : Bool
  deriving DecidableEq, Repr

/-- The glyphs of the digits 0 to 7 (10_state.md R33). -/
def fontLow : List Byte :=
  [0xF0, 0x90, 0x90, 0x90, 0xF0] ++ [0x20, 0x60, 0x20, 0x20, 0x70] ++
  [0xF0, 0x10, 0xF0, 0x80, 0xF0] ++ [0xF0, 0x10, 0xF0, 0x10, 0xF0] ++
  [0x90, 0x90, 0xF0, 0x10, 0x10] ++ [0xF0, 0x80, 0xF0, 0x10, 0xF0] ++
  [0xF0, 0x80, 0xF0, 0x90, 0xF0] ++ [0xF0, 0x10, 0x20, 0x40, 0x40]

/-- The glyphs of the digits 8 to F (10_state.md R33). -/
def fontHigh : List Byte :=
  [0xF0, 0x90, 0xF0, 0x90, 0xF0] ++ [0xF0, 0x90, 0xF0, 0x10, 0xF0] ++
  [0xF0, 0x90, 0xF0, 0x90, 0x90] ++ [0xE0, 0x90, 0xE0, 0x90, 0xE0] ++
  [0xF0, 0x80, 0x80, 0x80, 0xF0] ++ [0xE0, 0x90, 0x90, 0x90, 0xE0] ++
  [0xF0, 0x80, 0xF0, 0x80, 0xF0] ++ [0xF0, 0x80, 0xF0, 0x80, 0x80]

/-- FONT_ROM at its default (R33, 92_eei_decisions.md D13).
PRESUMED by the spec: the bytes are general knowledge, not in its source. Unsafe for a claim that takes the default
(log entry 6); a claim about every state holds for every font. -/
def defaultFont : FontRom := ⟨(fontLow ++ fontHigh).toArray, rfl⟩

/-- The parameters at their defaults (R6); DRW_CLEARS_VF is true.
DEDUCED by the spec from an open sentence of its source (92_eei_decisions.md D11). Unsafe for a claim that takes the
default (log entry 7); a claim about every state holds for both values. -/
def defaultParams : Params where
  fontRom := defaultFont
  drwClearsVf := true

end Sys2Proof.Machine
end

