-- ==== Sys2Proof/Machine/State.lean ====
section
/-! DEFINITION. The state of the core and its reset value (10_state.md R20 to R42), the reasons a step can stop, and the host's transactions (40_cycle.md R91). State is plain data. -/

namespace Sys2Proof.Machine

/-- The lifecycle of the core (10_state.md R40). -/
inductive Phase where
  /-- After reset, before the one load. -/
  | empty
  /-- After the load: cycles run. -/
  | ready
  /-- After a fault: only `Reset` and `Observe` are admitted. -/
  | halted
  deriving DecidableEq, Repr

/-- The causes of a fault with the information each records (60_exceptions.md R201). -/
inductive Cause where
  /-- A word that decodes to nothing (R202); the word. -/
  | decodeFailure (w : Word)
  /-- `00EE` with SP = 0 (R203). -/
  | stackUnderflow
  /-- `2nnn` with SP = 16 (R204); the target. -/
  | stackOverflow (nnn : Addr12)
  /-- A store into the font (R205); the reduced target address. -/
  | fontWrite (addr : Nat)
  /-- `Ex9E`, `ExA1` with V[x] > 15 (R206); the value. -/
  | keyIndexOutOfRange (value : Byte)
  /-- A `Load` of more than 3584 bytes (R207); the length. Returned, never recorded: it does not halt the core. -/
  | loadTooLarge (length : Nat)
  deriving DecidableEq, Repr

/-- The fault record (R201): the cause, and the address of the instruction that faulted. -/
structure FaultRecord where
  cause : Cause
  addr : Word
  deriving DecidableEq, Repr

/-- The 2048 one-bit pixels (10_state.md R30): bit `p` is `FB[p]`, 1 on and 0 off. -/
abbrev Screen := BitVec 2048

/-- What `Observe` returns (40_cycle.md R94). -/
structure Observation where
  redraw : Bool
  fb : Screen
  phase : Phase
  fault : Option FaultRecord
  deriving DecidableEq, Repr

/-- A transaction of the host (40_cycle.md R91). -/
inductive Transaction where
  | reset
  | load (bytes : List Byte)
  /-- `Cycle(r)`; `none` where the host's byte is left free (log entry 2). -/
  | cycle (r : Option Byte)
  | tick
  | setKeys (k : Vector Bool 16)
  | observe
  deriving DecidableEq, Repr

/-- What the last transaction gave the host (40_cycle.md R91, column "outputs"). -/
inductive Response where
  /-- No output (`Reset`, `Tick`, `SetKeys`). -/
  | noOutput
  /-- `Load` or `Cycle` completed. -/
  | ok
  /-- `Cycle` raised a fault. -/
  | faulted (r : FaultRecord)
  /-- `Load` was rejected (R207). -/
  | rejected (c : Cause)
  /-- `Observe` (R94). -/
  | observed (o : Observation)
  deriving DecidableEq, Repr

/-- The bytes of memory that differ from their reset value, addresses strictly rising (Ops.lean, `Memory.wf`). -/
abbrev Memory := List Host.Cell

/-- Everything the spec gives the core (10_state.md), its parameters (00_scope.md R6), then the host's side of the interface. -/
structure State where
  /-- `V[0]` to `V[15]` (R20). -/
  v : Vector Byte 16
  /-- The index register `I` (R24). -/
  i : Word
  /-- `PC` (R22). -/
  pc : Word
  /-- The call stack's entries (R25). -/
  stack : Vector Word 16
  /-- `SP`, the number of entries in use, 0 to 16 (R26). -/
  sp : Fin 17
  /-- The delay timer (R27). -/
  dt : Byte
  /-- The sound timer (R28). -/
  st : Byte
  /-- `M` (R29). -/
  mem : Memory
  /-- `FB[0]` to `FB[2047]` (R30). -/
  fb : Screen
  /-- `K[0]` to `K[15]` (R31). -/
  keys : Vector Bool 16
  /-- The redraw signal (R32). -/
  redraw : Bool
  /-- Where the core is in its lifecycle (R40). -/
  phase : Phase
  /-- The fault record, kept until reset (R41). -/
  fault : Option FaultRecord
  /-- The parameters FONT_ROM and DRW_CLEARS_VF of this core (00_scope.md R6; 92_eei_decisions.md D11, D13).
  Fixed for the core: no step changes them (log entries 6 and 7). -/
  params : Params
  /-- The model's own: the host's transactions not yet performed, oldest first (log entry 1). -/
  inputs : List Transaction
  /-- The model's own: the output of the last transaction (log entry 3). -/
  response : Response
  /-- The model's own: the byte of the current `Cycle(r)`, `none` where it is left free (log entry 2). -/
  cycleByte : Option Byte
  /-- The model's own: how many free bytes have been drawn (log entry 2). -/
  draws : Nat
  deriving DecidableEq, Repr

/-- The machine right after reset (10_state.md R37, 70_reset_and_hazards.md R230), its parameters at their defaults (00_scope.md R6).
Memory lists nothing: an unlisted byte reads as its reset value, the font or 0 (Ops.lean, `resetByte`). -/
def State.reset : State where
  v := Vector.replicate 16 0
  i := 0
  pc := BitVec.ofNat 16 Config.entry
  stack := Vector.replicate 16 0
  sp := 0
  dt := 0
  st := 0
  mem := []
  fb := 0
  keys := Vector.replicate 16 false
  redraw := false
  phase := .empty
  fault := none
  params := defaultParams
  inputs := []
  response := .noOutput
  cycleByte := none
  draws := 0

/-- Why the machine stops. -/
inductive Fault where
  /-- The core is halted and the host asks for a transaction other than `Reset` and `Observe`: a stuck state
  (40_cycle.md R92, 93_implementation_defined.md U9). Raised by `step` (Transactions.lean, `notAdmitted`).
  Safe: the spec gives such a transaction no move. -/
  | haltedCore
  deriving DecidableEq, Repr

/-- Why the machine gives no meaning. -/
inductive Refusal where
  /-- An instruction without a meaning yet, by its mnemonic; raised by `exec`'s refused arms only. Safe. -/
  | notModelled (mnemonic : String)
  /-- The host asks for a `Cycle` before the load, or for a second `Load` (40_cycle.md R92, 93_implementation_defined.md U18).
  Raised by `step` (Transactions.lean, `notAdmitted`). Safe: the spec gives such a transaction no move. -/
  | noMove
  deriving DecidableEq, Repr

/-- What one step of the core answers. -/
abbrev Outcome := Host.Outcome State Fault Refusal

end Sys2Proof.Machine
end

