-- ==== Sys2Proof/Machine/Ops.lean ====
section
/-! DEFINITION. The named operations over memory, registers, display and faults that the meanings are written in. -/

namespace Sys2Proof.Machine

/-! ### Memory (20_memory.md) -/

/-- `Reduce(a)` (R52). -/
def reduce (a : Nat) : Nat := a % Config.memSize

/-- The address lies in the font, 0x050 to 0x09F (R51, R55). -/
def inFont (a : Nat) : Bool := decide (Config.fontBase ≤ a) && decide (a ≤ Config.fontLast)

/-- The reset value of the byte at `a` (10_state.md R37): FONT_ROM in the font, and 0 elsewhere. What an unlisted address reads as. -/
def resetByte (rom : FontRom) (a : Nat) : Byte :=
  if inFont a then rom.toList.getD (a - Config.fontBase) 0 else 0

/-- The byte at address `a`: the listed one, else its reset value. -/
def Memory.read (rom : FontRom) : Memory → Nat → Byte
  | [], a => resetByte rom a
  | (b, w) :: rest, a => if a = b then w else Memory.read rom rest a

/-- Writes one byte, keeping the canonical form: rising addresses, no entry equal to its reset value. -/
def Memory.write (rom : FontRom) : Memory → Nat → Byte → Memory
  | [], a, x => if x = resetByte rom a then [] else [(a, x)]
  | (b, w) :: rest, a, x =>
    if a < b then
      if x = resetByte rom a then (b, w) :: rest else (a, x) :: (b, w) :: rest
    else if a = b then
      if x = resetByte rom a then rest else (a, x) :: rest
    else (b, w) :: Memory.write rom rest a x

/-- The canonical form from address `lo` up. -/
def Memory.wfFrom (rom : FontRom) (lo : Nat) : Memory → Bool
  | [] => true
  | (a, x) :: rest =>
    decide (lo ≤ a) && decide (a < Config.memSize) && decide (x ≠ resetByte rom a) && Memory.wfFrom rom (a + 1) rest

/-- The canonical form: addresses strictly rising and below 4096, no entry equal to its reset value. -/
def Memory.wf (rom : FontRom) (m : Memory) : Bool := Memory.wfFrom rom 0 m

/-- Writes bytes to `Reduce(base)`, `Reduce(base + 1)`, … in ascending order (R54). -/
def Memory.writeBytes (rom : FontRom) (m : Memory) (base : Nat) : List Byte → Memory
  | [] => m
  | x :: xs => Memory.writeBytes rom (m.write rom (reduce base) x) (base + 1) xs

/-- `MemRead(a, 1)` (R53). -/
def State.memRead (s : State) (a : Nat) : Byte := s.mem.read s.params.fontRom (reduce a)

/-- The first of `n` targets from `base` up, reduced, that lies in the font (R55; 60_exceptions.md R205). -/
def firstFontTarget (base n : Nat) : Option Nat :=
  ((List.range n).map fun k => reduce (base + k)).find? inFont

/-- The instruction word at PC (R56, R57): two reduced addresses, high byte first. -/
def State.fetchWord (s : State) : Word :=
  wordOfBytes (s.memRead s.pc.toNat) (s.memRead (s.pc.toNat + 1))

/-! ### Registers -/

/-- `V[x]` (10_state.md R20). -/
def State.getV (s : State) (x : RegIdx) : Byte := s.v[x]

/-- `V[x] <- b`. No register is hardwired (R20). -/
def State.setV (s : State) (x : RegIdx) (b : Byte) : State := { s with v := s.v.set x b }

/-- The number of the flag register VF (R21). -/
def vf : RegIdx := 15

/-- Writes a result to `V[x]` and then a flag to VF (43_alu.md R130): with `x` = 15 VF ends as the flag. -/
def State.setResultFlag (s : State) (x : RegIdx) (result flag : Byte) : State :=
  { s with v := (s.v.set x result).set vf flag }

/-- A skip (42_control_flow.md R110): PC moves on by 2 more where the condition holds. -/
def State.skipIf (s : State) (c : Bool) : State := { s with pc := if c then s.pc + 2 else s.pc }

/-! ### Taking a fault, and the way back (60_exceptions.md) -/

/-- The address of the instruction that is executing: the fetch has moved PC on by 2 (40_cycle.md R90). -/
def State.insnAddr (s : State) : Word := s.pc - 2

/-- Fault entry (R208): the core halts with its record; nothing else changes. -/
def State.enterFault (s : State) (c : Cause) : State :=
  { s with
    phase := .halted
    fault := some ⟨c, s.insnAddr⟩
    response := .faulted ⟨c, s.insnAddr⟩ }

/-- `raise <Fault>(info)` (00_scope.md R9): the one way an instruction faults. -/
def raise (c : Cause) (s : State) : Outcome := .next (s.enterFault c)

/-- The cause's code (R201). -/
def causeCode : Cause → Nat
  | .decodeFailure _ => 1
  | .stackUnderflow => 2
  | .stackOverflow _ => 3
  | .fontWrite _ => 4
  | .keyIndexOutOfRange _ => 5
  | .loadTooLarge _ => 6

/-- The cause halts the core (R201, last column). -/
def causeHalts : Cause → Bool
  | .loadTooLarge _ => false
  | .decodeFailure _ | .stackUnderflow | .stackOverflow _ | .fontWrite _ | .keyIndexOutOfRange _ => true

/-- `Reset` (70_reset_and_hazards.md R230), the only way out of `Halted` (R210). The parameters are fixed for the
core and stay; so do the host's pending transactions and the count of free draws, which are not the core's (log entry 10). -/
def State.restart (s : State) : State :=
  { State.reset with params := s.params, inputs := s.inputs, draws := s.draws }

/-- The host's pending transactions replaced (log entry 1). -/
def State.withInputs (s : State) (ts : List Transaction) : State := { s with inputs := ts }

/-! ### The cycle's own effects -/

/-- What a cycle does before it executes (40_cycle.md R90): `redraw` false, PC moved on by 2, the host's byte at hand.
The response is `ok` unless a fault replaces it. -/
def State.beginCycle (s : State) (r : Option Byte) : State :=
  { s with redraw := false, pc := s.pc + 2, cycleByte := r, response := .ok }

/-- `Draw()` (43_alu.md R142): the byte of `Cycle(r)`, or a free value where the host's byte is left free. -/
def State.drawByte (s : State) : Byte := s.cycleByte.getD (Config.randomByte s.draws)

/-- The state after `Draw()`: a free draw is counted, so that the next one is unrelated. -/
def State.afterDraw (s : State) : State :=
  { s with draws := match s.cycleByte with | some _ => s.draws | none => s.draws + 1 }

/-! ### Stores of several bytes (R54, R55, R208) -/

/-- The bytes land at `Reduce(base + k)`. -/
def State.storeBytes (s : State) (base : Nat) (xs : List Byte) : State :=
  { s with mem := s.mem.writeBytes s.params.fontRom base xs }

/-- A store of bytes from `base` up: every target is checked before any byte is written, and the fault names the
first target in the font. -/
def storeChecked (base : Nat) (xs : List Byte) (s : State) : Outcome :=
  match firstFontTarget base xs.length with
  | some b => raise (.fontWrite b) s
  | none => .next (s.storeBytes base xs)

/-! ### The framebuffer (10_state.md R30, 41_display.md R101) -/

/-- The index of the pixel at column `x`, row `y`, each reduced on its own. -/
def pixelIndex (x y : Nat) : Fin 2048 :=
  ⟨(y % Config.screenH) * Config.screenW + x % Config.screenW, by
    have h1 : y % 32 < 32 := Nat.mod_lt _ (by decide)
    have h2 : x % 64 < 64 := Nat.mod_lt _ (by decide)
    show y % 32 * 64 + x % 64 < 2048
    omega⟩

/-- Column `c` of a sprite row: bit 7 is the leftmost (10_state.md R39). -/
def spriteBit (row : Byte) (c : Nat) : Bool := row.getLsbD (7 - c)

/-- Row `r` of the sprite at `I` (R101). -/
def State.spriteRow (s : State) (r : Nat) : Byte := s.memRead (s.i.toNat + r)

/-- The pixels under the 1 bits of row `r` of the sprite at (`x0`, `y0`), left to right. -/
def State.spriteRowPixels (s : State) (x0 y0 r : Nat) : List (Fin 2048) :=
  ((List.range 8).filter fun c => spriteBit (s.spriteRow r) c).map fun c => pixelIndex (x0 + c) (y0 + r)

/-- The pixels under the 1 bits of an `n`-row sprite, rows top to bottom (R101). -/
def State.spritePixels (s : State) (x0 y0 n : Nat) : List (Fin 2048) :=
  (List.range n).flatMap fun r => s.spriteRowPixels x0 y0 r

/-- `FB[p]`. -/
def State.pixel (s : State) (p : Fin 2048) : Bool := s.fb.getLsbD p.val

/-- `FB[p] <- FB[p] ^ 1`, noting whether the pixel was on (R101). -/
def flipPixel (acc : Screen × Bool) (p : Fin 2048) : Screen × Bool :=
  (acc.1 ^^^ BitVec.twoPow 2048 p.val, acc.2 || acc.1.getLsbD p.val)

/-- Flips the pixels in turn; the second part is the collision (R101). -/
def flipPixels (fb : Screen) (ps : List (Fin 2048)) : Screen × Bool :=
  ps.foldl flipPixel (fb, false)

end Sys2Proof.Machine
end

