-- ==== Sys2Proof/Machine/Flags.lean ====
section
/-! DEFINITION. Every value that VF can receive as a flag (10_state.md R34). -/

namespace Sys2Proof.Machine

/-- A flag as the byte VF holds, 1 or 0. -/
def flagByte (b : Bool) : Byte := if b then 1 else 0

/-- `8xy4` (43_alu.md R137): the unsigned sum is above 255. -/
def carryFlag (a b : Byte) : Byte := flagByte (decide (255 < a.toNat + b.toNat))

/-- `8xy5` as `a - b`, `8xy7` as `b - a` (R138, R140): no borrow. -/
def noBorrowFlag (a b : Byte) : Byte := flagByte (decide (b.toNat ≤ a.toNat))

/-- `8xy6` (R139): bit 0 before the shift. -/
def lowBitFlag (a : Byte) : Byte := a &&& 1

/-- `8xyE` (R141): bit 7 before the shift. -/
def highBitFlag (a : Byte) : Byte := a >>> 7

/-- `Dxyn` (41_display.md R101): 1 on a collision; with none, 0, or VF as it was where DRW_CLEARS_VF (`clears`) is false. -/
def collisionFlag (clears collision : Bool) (old : Byte) : Byte :=
  if collision then 1 else if clears then 0 else old

end Sys2Proof.Machine
end

