-- ==== Sys2Proof/Machine/Alu.lean ====
section
/-! DEFINITION. The register and arithmetic instructions (43_alu.md). Operands are read before any write (R130). -/

namespace Sys2Proof.Machine

/-- `6xkk` LD Vx, byte (R131). -/
def execLdByte (x : RegIdx) (kk : Byte) (s : State) : Outcome := .next (s.setV x kk)

/-- `7xkk` ADD Vx, byte (R132): the carry is discarded. -/
def execAddByte (x : RegIdx) (kk : Byte) (s : State) : Outcome := .next (s.setV x (s.getV x + kk))

/-- `8xy0` LD Vx, Vy (R133). -/
def execLdReg (x y : RegIdx) (s : State) : Outcome := .next (s.setV x (s.getV y))

/-- `8xy1` OR Vx, Vy (R134). -/
def execOrReg (x y : RegIdx) (s : State) : Outcome := .next (s.setV x (s.getV x ||| s.getV y))

/-- `8xy2` AND Vx, Vy (R135). -/
def execAndReg (x y : RegIdx) (s : State) : Outcome := .next (s.setV x (s.getV x &&& s.getV y))

/-- `8xy3` XOR Vx, Vy (R136). -/
def execXorReg (x y : RegIdx) (s : State) : Outcome := .next (s.setV x (s.getV x ^^^ s.getV y))

/-- `8xy4` ADD Vx, Vy (R137). -/
def execAddReg (x y : RegIdx) (s : State) : Outcome :=
  .next (s.setResultFlag x (s.getV x + s.getV y) (carryFlag (s.getV x) (s.getV y)))

/-- `8xy5` SUB Vx, Vy (R138). -/
def execSubReg (x y : RegIdx) (s : State) : Outcome :=
  .next (s.setResultFlag x (s.getV x - s.getV y) (noBorrowFlag (s.getV x) (s.getV y)))

/-- `8xy6` SHR Vx (R139); the field `y` is not read (R74). -/
def execShr (x _y : RegIdx) (s : State) : Outcome :=
  .next (s.setResultFlag x (s.getV x >>> 1) (lowBitFlag (s.getV x)))

/-- `8xy7` SUBN Vx, Vy (R140). -/
def execSubnReg (x y : RegIdx) (s : State) : Outcome :=
  .next (s.setResultFlag x (s.getV y - s.getV x) (noBorrowFlag (s.getV y) (s.getV x)))

/-- `8xyE` SHL Vx (R141); the field `y` is not read (R74). -/
def execShl (x _y : RegIdx) (s : State) : Outcome :=
  .next (s.setResultFlag x (s.getV x <<< 1) (highBitFlag (s.getV x)))

/-- `Cxkk` RND Vx, byte (R142). -/
def execRnd (x : RegIdx) (kk : Byte) (s : State) : Outcome :=
  .next (s.afterDraw.setV x (s.drawByte &&& kk))

end Sys2Proof.Machine
end

