-- ==== Sys2Proof/Machine/Operands.lean ====
section
/-! DEFINITION. The operand forms (30_encoding.md R73, 44_index_memory.md R156, 45_keypad_timers.md R170, R174). -/

namespace Sys2Proof.Machine

/-- `zext_16(nnn)` (R73). -/
def zextAddr (nnn : Addr12) : Word := nnn.setWidth 16

/-- `zext_16` of a register's byte (R118, R151). -/
def zextByte (b : Byte) : Word := b.setWidth 16

/-- `V[x] * 5 + 0x050` modulo 65536 (44_index_memory.md R152). -/
def glyphAddr (b : Byte) : Word := zextByte b * BitVec.ofNat 16 Config.glyphBytes + BitVec.ofNat 16 Config.fontBase

/-- The hundreds, tens and ones of a byte (44_index_memory.md R153). -/
def decimalDigits (b : Byte) : List Byte := [b / 100, b / 10 % 10, b % 10]

/-- `V[0]` to `V[x]`, in ascending order (44_index_memory.md R154). -/
def State.regBlock (s : State) (x : RegIdx) : List Byte := s.v.toList.take (x.val + 1)

/-- `V[0]` to `V[x]` loaded from `Reduce(I + k)` (44_index_memory.md R155). -/
def State.loadBlock (s : State) (x : RegIdx) : State :=
  { s with v := Vector.ofFn fun k => if k ≤ x then s.memRead (s.i.toNat + k.val) else s.v[k] }

/-- The key that `V[x]` names, where it names one (R170). -/
def keyIndex (b : Byte) : Option (Fin 16) :=
  if h : b.toNat < 16 then some ⟨b.toNat, h⟩ else none

/-- A key test (R171, R172): `KeyIndexOutOfRange` before the key is read, else a skip where the key is as wanted. -/
def skipOnKey (x : RegIdx) (pressed : Bool) (s : State) : Outcome :=
  match keyIndex (s.getV x) with
  | none => raise (.keyIndexOutOfRange (s.getV x)) s
  | some k => .next (s.skipIf (s.keys[k] == pressed))

/-- The least pressed key (R174). -/
def leastKey (keys : Vector Bool 16) : Option (Fin 16) := (List.finRange 16).find? fun k => keys[k]

/-- A key's number as a byte (R174). -/
def keyByte (k : Fin 16) : Byte := BitVec.ofNat 8 k.val

end Sys2Proof.Machine
end

