-- ==== Sys2Proof/Machine/Control.lean ====
section
/-! DEFINITION. The control-transfer instructions (42_control_flow.md). -/

namespace Sys2Proof.Machine

/-- `00EE` RET (R111): the popped entry keeps its value (10_state.md R25). -/
def execRet (s : State) : Outcome :=
  if h : 0 < s.sp.val then
    .next { s with
      sp := ⟨s.sp.val - 1, by have := s.sp.isLt; omega⟩
      pc := s.stack[s.sp.val - 1]'(by have := s.sp.isLt; omega) }
  else raise .stackUnderflow s

/-- `1nnn` JP addr (R112). -/
def execJp (nnn : Addr12) (s : State) : Outcome := .next { s with pc := zextAddr nnn }

/-- `2nnn` CALL addr (R113). -/
def execCall (nnn : Addr12) (s : State) : Outcome :=
  if h : s.sp.val < Config.stackDepth then
    .next { s with
      stack := s.stack.set s.sp.val s.pc h
      sp := ⟨s.sp.val + 1, Nat.succ_lt_succ h⟩
      pc := zextAddr nnn }
  else raise (.stackOverflow nnn) s

/-- `3xkk` SE Vx, byte (R114). -/
def execSeByte (x : RegIdx) (kk : Byte) (s : State) : Outcome := .next (s.skipIf (s.getV x == kk))

/-- `4xkk` SNE Vx, byte (R115). -/
def execSneByte (x : RegIdx) (kk : Byte) (s : State) : Outcome := .next (s.skipIf (s.getV x != kk))

/-- `5xy0` SE Vx, Vy (R116). -/
def execSeReg (x y : RegIdx) (s : State) : Outcome := .next (s.skipIf (s.getV x == s.getV y))

/-- `9xy0` SNE Vx, Vy (R117). -/
def execSneReg (x y : RegIdx) (s : State) : Outcome := .next (s.skipIf (s.getV x != s.getV y))

/-- `Bnnn` JP V0, addr (R118): PC holds the sum unreduced. -/
def execJpV0 (nnn : Addr12) (s : State) : Outcome :=
  .next { s with pc := zextAddr nnn + zextByte (s.getV 0) }

end Sys2Proof.Machine
end

