-- ==== Sys2Proof/Machine/Display.lean ====
section
/-! DEFINITION. The display instructions `00E0` and `Dxyn` (41_display.md). -/

namespace Sys2Proof.Machine

/-- `00E0` CLS (R100). -/
def execCls (s : State) : Outcome :=
  .next { s with fb := 0, redraw := true }

/-- What a draw leaves (R101): the flipped pixels, VF last (as the parameter DRW_CLEARS_VF says), `redraw` true. -/
def State.drawSprite (s : State) (x0 y0 n : Nat) : State :=
  let drawn := flipPixels s.fb (s.spritePixels x0 y0 n)
  { s with
    fb := drawn.1
    v := s.v.set vf (collisionFlag s.params.drwClearsVf drawn.2 s.v[vf])
    redraw := true }

/-- `Dxyn` DRW Vx, Vy, n (R101). -/
def execDrw (x y : RegIdx) (n : Nat) (s : State) : Outcome :=
  .next (s.drawSprite (s.getV x).toNat (s.getV y).toNat n)

end Sys2Proof.Machine
end

