-- ==== Sys2Proof/Machine/IndexMemory.lean ====
section
/-! DEFINITION. The index-register and memory instructions (44_index_memory.md). -/

namespace Sys2Proof.Machine

/-- `Annn` LD I, addr (R150). -/
def execLdI (nnn : Addr12) (s : State) : Outcome := .next { s with i := zextAddr nnn }

/-- `Fx1E` ADD I, Vx (R151): modulo 65536, no flag. -/
def execAddI (x : RegIdx) (s : State) : Outcome := .next { s with i := s.i + zextByte (s.getV x) }

/-- `Fx29` LD F, Vx (R152). -/
def execLdF (x : RegIdx) (s : State) : Outcome := .next { s with i := glyphAddr (s.getV x) }

/-- `Fx33` BCD Vx (R153). -/
def execBcd (x : RegIdx) (s : State) : Outcome :=
  storeChecked s.i.toNat (decimalDigits (s.getV x)) s

/-- `Fx55` LD [I], Vx (R154). -/
def execStoreRegs (x : RegIdx) (s : State) : Outcome :=
  storeChecked s.i.toNat (s.regBlock x) s

/-- `Fx65` LD Vx, [I] (R155). -/
def execLoadRegs (x : RegIdx) (s : State) : Outcome := .next (s.loadBlock x)

end Sys2Proof.Machine
end

