-- ==== Sys2Proof/Machine/KeypadTimers.lean ====
section
/-! DEFINITION. The keypad and timer instructions (45_keypad_timers.md). -/

namespace Sys2Proof.Machine

/-- `Ex9E` SKP Vx (R171). -/
def execSkp (x : RegIdx) (s : State) : Outcome := skipOnKey x true s

/-- `ExA1` SKNP Vx (R172). -/
def execSknp (x : RegIdx) (s : State) : Outcome := skipOnKey x false s

/-- `Fx07` LD Vx, DT (R173). -/
def execLdVxDt (x : RegIdx) (s : State) : Outcome := .next (s.setV x s.dt)

/-- `Fx0A` LD Vx, K (R174): with no key pressed PC goes back to the instruction itself. -/
def execLdVxK (x : RegIdx) (s : State) : Outcome :=
  match leastKey s.keys with
  | some k => .next (s.setV x (keyByte k))
  | none => .next { s with pc := s.pc - 2 }

/-- `Fx15` LD DT, Vx (R176). -/
def execLdDtVx (x : RegIdx) (s : State) : Outcome := .next { s with dt := s.getV x }

/-- `Fx18` LD ST, Vx (R177). -/
def execLdStVx (x : RegIdx) (s : State) : Outcome := .next { s with st := s.getV x }

end Sys2Proof.Machine
end

