-- ==== Sys2Proof/Machine/Transactions.lean ====
section
/-! DEFINITION. The host's transactions other than `Cycle` (40_cycle.md R91 to R94; 60_exceptions.md R214; 70_reset_and_hazards.md R231), and which phase admits which. -/

namespace Sys2Proof.Machine

/-- The table of R92. -/
def admitted : Transaction → Phase → Bool
  | .reset, _ => true
  | .observe, _ => true
  | .load _, .empty => true
  | .load _, .ready => false
  | .load _, .halted => false
  | .cycle _, .empty => false
  | .cycle _, .ready => true
  | .cycle _, .halted => false
  | .tick, .empty => true
  | .tick, .ready => true
  | .tick, .halted => false
  | .setKeys _, .empty => true
  | .setKeys _, .ready => true
  | .setKeys _, .halted => false

/-- A transaction that the phase does not admit has no move (R92): a halted core is stuck (93 U9), any other is refused (93 U18). -/
def notAdmitted (p : Phase) : Outcome :=
  match p with
  | .halted => .fault .haltedCore
  | .empty => .refused .noMove
  | .ready => .refused .noMove

/-- One count down, never below zero (R214). -/
def countDown (b : Byte) : Byte := if b = 0 then 0 else b - 1

/-- `Tick` (R214). -/
def State.doTick (s : State) : State :=
  { s with dt := countDown s.dt, st := countDown s.st, response := .noOutput }

/-- `SetKeys(k)` (R93). -/
def State.doSetKeys (s : State) (k : Vector Bool 16) : State :=
  { s with keys := k, response := .noOutput }

/-- `Observe` (R94). -/
def State.doObserve (s : State) : State :=
  { s with response := .observed ⟨s.redraw, s.fb, s.phase, s.fault⟩ }

/-- `Load(bytes)` (R231): an image that is too long is rejected and nothing else changes (60_exceptions.md R207). -/
def State.doLoad (s : State) (bytes : List Byte) : State :=
  if bytes.length ≤ Config.maxImage then
    { s with mem := s.mem.writeBytes s.params.fontRom Config.entry bytes, phase := .ready, response := .ok }
  else { s with response := .rejected (.loadTooLarge bytes.length) }

end Sys2Proof.Machine
end

