-- ==== Sys2Proof/Machine/Step.lean ====
section
/-! DEFINITION. One step: the host's next transaction (40_cycle.md R90, R91). -/

namespace Sys2Proof.Machine

/-- `Cycle(r)` in phase `Ready` (R90): fetch, advance, decode, then execute or raise `DecodeFailure`. -/
def runCycle (r : Option Byte) (s : State) : Outcome :=
  match decodeWord s.fetchWord with
  | .ok i => exec i (s.beginCycle r)
  | .error _ => raise (.decodeFailure s.fetchWord) (s.beginCycle r)

/-- One transaction that the phase admits. -/
def perform (t : Transaction) (s : State) : Outcome :=
  match t with
  | .reset => .next s.restart
  | .load bytes => .next (s.doLoad bytes)
  | .cycle r => runCycle r s
  | .tick => .next s.doTick
  | .setKeys k => .next (s.doSetKeys k)
  | .observe => .next s.doObserve

/-- One transaction in any phase (R92). -/
def transact (t : Transaction) (s : State) : Outcome :=
  if admitted t s.phase then perform t s else notAdmitted s.phase

/-- The host's next transaction: the oldest pending one, and a `Cycle` whose byte is free where none is pending (log entry 1). -/
def step (s : State) : Host.Outcome State Fault Refusal :=
  match s.inputs with
  | [] => transact (.cycle none) s
  | t :: rest => transact t (s.withInputs rest)

/-- `s` with the word placed where the next cycle fetches, loaded, and with no transaction before that cycle (log entry 5). -/
def State.withFetchWord (s : State) (nbits w : Nat) : State :=
  { s with
    mem := s.mem.writeBytes s.params.fontRom s.pc.toNat (wordBytes (tableWord nbits w))
    phase := .ready
    inputs := [] }

end Sys2Proof.Machine
end

