-- ==== Sys2Proof/Safety.lean ====
section
/-! DEFINITION. The terms in which statements speak: what a step may change, when a state is coherent, and the picture a sprite draws. -/

namespace Sys2Proof.Machine

/-! ### What changes -/

/-- `t` is `s` but for general registers among `ws`. -/
def OnlyRegs (ws : List RegIdx) (s t : State) : Prop :=
  t = { s with v := t.v } ∧ ∀ k, k ∉ ws → t.getV k = s.getV k

/-- `t` is `s` but for `PC`. -/
def OnlyPc (s t : State) : Prop := t = { s with pc := t.pc }

/-- `t` is `s` but for `I`. -/
def OnlyIndex (s t : State) : Prop := t = { s with i := t.i }

/-- `t` is `s` but for the bytes at the reduced addresses of the `n` targets from `base` up. -/
def OnlyBytes (base n : Nat) (s t : State) : Prop :=
  t = { s with mem := t.mem } ∧
    ∀ a, (∀ k, k < n → (base + k) % 4096 ≠ a % 4096) → t.memRead a = s.memRead a

/-- The state a fault leaves (60_exceptions.md R208): the cause and the instruction's address recorded, nothing else touched. -/
def FaultedFrom (c : Cause) (s t : State) : Prop :=
  t = { s with phase := .halted, fault := some ⟨c, s.pc - 2⟩, response := .faulted ⟨c, s.pc - 2⟩ }

/-- The instructions that can halt the core: RET, CALL, BCD, the register store and the key tests (60_exceptions.md R203 to R206). -/
def MayFault (i : Instr) : Prop :=
  i = .ret ∨ (∃ a, i = .call a) ∨ (∃ x, i = .bcd x) ∨ (∃ x, i = .storeRegs x) ∨ (∃ x, i = .skp x) ∨ ∃ x, i = .sknp x

/-- Applies `f` to the next state, where there is one. -/
def mapNext (f : State → State) : Outcome → Outcome
  | .next t => .next (f t)
  | .fault r => .fault r
  | .refused r => .refused r

/-! ### Coherent states -/

/-- The font holds FONT_ROM, this core's parameter (10_state.md R42). -/
def FontIntact (s : State) : Prop := ∀ k : Fin 80, s.memRead (0x050 + k.val) = s.params.fontRom[k]

/-- A core is halted exactly when it holds a fault record, and a halted core is as R208 leaves it: a cause that halts,
PC two past the instruction that faulted, `redraw` false. -/
def FaultCoherent (s : State) : Prop :=
  match s.phase with
  | .halted => ∃ r, s.fault = some r ∧ causeHalts r.cause = true ∧ s.pc = r.addr + 2 ∧ s.redraw = false
  | .empty => s.fault = none
  | .ready => s.fault = none

/-- What every step keeps: memory in canonical form, the font as it was at reset, the fault record coherent. -/
def State.Inv (s : State) : Prop := s.mem.wf s.params.fontRom = true ∧ FontIntact s ∧ FaultCoherent s

/-! ### The picture of a sprite (41_display.md R101) -/

/-- A 1 bit of the `n`-row sprite at `I` drawn at (`x0`, `y0`) falls on the pixel in column `px`, row `py`. -/
def SpriteLit (s : State) (x0 y0 n px py : Nat) : Prop :=
  ∃ r c, r < n ∧ c < 8 ∧ (s.memRead (s.i.toNat + r)).getLsbD (7 - c) = true ∧
    (x0 + c) % 64 = px ∧ (y0 + r) % 32 = py

/-- `FB[py * 64 + px]` is on. -/
def PixelOn (s : State) (px py : Nat) : Prop := s.fb.getLsbD (py * 64 + px) = true

end Sys2Proof.Machine
end

