-- ==== Sys2Proof/Certificates/Slice0/Obligations.lean ====
section
/-! DEFINITION. The statements for the provers, from the numbered rules of spec/. A docstring says which rule or section a statement formalises; where a clause rests on a decision of spec/92_eei_decisions.md or on the model's own log, it says so. -/

open Sys2Proof Sys2Proof.Machine

/-! ### Encoding (30_encoding.md) -/

/-- 30_encoding.md section 3: decoding the word of any well-formed instruction gives that instruction, every operand at every value. -/
def Obligations.DecodeEncodeRoundTrip : Prop :=
  ∀ i : Instr, i.wellFormed = true → decodeWord (encode i) = .ok i

/-- 30_encoding.md section 3: a word that decodes is the word of the instruction it decodes to (no bit is dropped, the unused `y` of the shifts included), and that instruction is well-formed. -/
def Obligations.EncodeDecodeRoundTrip : Prop :=
  ∀ (w : Word) (i : Instr), decodeWord w = .ok i → encode i = w ∧ i.wellFormed = true

/-- 30_encoding.md section 3 and opcode_table.json: a word decodes to an instruction exactly when it lies in a row of the table, to the instruction of that row, and no word lies in two rows. -/
def Obligations.DecoderAgreesWithOpcodeTable : Prop :=
  (∀ (w : Word) (i : Instr), decodeWord w = .ok i → tableRow i ∈ opcodeRows ∧ matchesRow w (tableRow i) = true) ∧
  (∀ (w : Word) (row : Word × Word), row ∈ opcodeRows → matchesRow w row = true →
    ∃ i, decodeWord w = .ok i ∧ tableRow i = row) ∧
  (∀ (w : Word) (r₁ r₂ : Word × Word), r₁ ∈ opcodeRows → r₂ ∈ opcodeRows →
    matchesRow w r₁ = true → matchesRow w r₂ = true → r₁ = r₂)

/-- 30_encoding.md section 4: the illegal words, family by family; each is refused under its own name. -/
def Obligations.IllegalWordsByFamily : Prop :=
  ∀ w : Word, decodeWord w = .error (.illegalWord w) ↔
    (w.toNat / 4096 = 0x0 ∧ w.toNat ≠ 0x00E0 ∧ w.toNat ≠ 0x00EE) ∨
    ((w.toNat / 4096 = 0x5 ∨ w.toNat / 4096 = 0x9) ∧ w.toNat % 16 ≠ 0) ∨
    (w.toNat / 4096 = 0x8 ∧ w.toNat % 16 ∈ [0x8, 0x9, 0xA, 0xB, 0xC, 0xD, 0xF]) ∨
    (w.toNat / 4096 = 0xE ∧ w.toNat % 256 ∉ [0x9E, 0xA1]) ∨
    (w.toNat / 4096 = 0xF ∧ w.toNat % 256 ∉ [0x07, 0x0A, 0x15, 0x18, 0x1E, 0x29, 0x33, 0x55, 0x65])

/-- 30_encoding.md sections 1 and 3: at least one word from each instruction file (41 to 45), written out bit by bit, and one illegal word. -/
def Obligations.SampleWordsDecode : Prop :=
  decodeWord 0b0000000011100000#16 = .ok .cls ∧
  decodeWord 0b1101000100100101#16 = .ok (.drw 1 2 5) ∧
  decodeWord 0b0010001100000000#16 = .ok (.call 0x300) ∧
  decodeWord 0b1000000000010100#16 = .ok (.addReg 0 1) ∧
  decodeWord 0b1111001001010101#16 = .ok (.storeRegs 2) ∧
  decodeWord 0b1110010110011110#16 = .ok (.skp 5) ∧
  decodeWord 0b0101000100100001#16 = .error (.illegalWord 0x5121#16)

/-! ### The cycle and the transactions (40_cycle.md) -/

/-- 40_cycle.md section 1: a cycle of a ready core whose word decodes runs exactly that instruction, on the state in which `redraw` is false and PC has moved on by 2.
With a pending `Cycle(r)` the byte is the host's; with nothing pending it is free (the model's choice, log entries 1 and 2). -/
def Obligations.StepRunsDecodedInstruction : Prop :=
  ∀ (s : State) (i : Instr), s.phase = .ready → decodeWord s.fetchWord = .ok i →
    (s.inputs = [] → step s = exec i { s with redraw := false, pc := s.pc + 2, cycleByte := none, response := .ok }) ∧
    (∀ r rest, s.inputs = .cycle r :: rest →
      step s = exec i { s with inputs := rest, redraw := false, pc := s.pc + 2, cycleByte := r, response := .ok })

/-- 40_cycle.md section 1 and 60_exceptions.md section 1 (decisions D4, D5): a cycle on an illegal word halts the core with `DecodeFailure`, the word and the address it was fetched from; `redraw` is false, PC two further, nothing else changes.
With a pending `Cycle(r)` the byte is the host's; that a step with nothing pending is a `Cycle` with a free byte is the model's choice (log entries 1 and 2), and so is the field `response` (log entry 3). -/
def Obligations.StepRaisesDecodeFailure : Prop :=
  ∀ (s : State) (e : DecodeError), s.phase = .ready → decodeWord s.fetchWord = .error e →
    (s.inputs = [] → ∃ t, step s = .next t ∧
      FaultedFrom (.decodeFailure s.fetchWord)
        { s with redraw := false, pc := s.pc + 2, cycleByte := none, response := .ok } t ∧
      t.fault = some ⟨.decodeFailure s.fetchWord, s.pc⟩) ∧
    (∀ r rest, s.inputs = .cycle r :: rest → ∃ t, step s = .next t ∧
      FaultedFrom (.decodeFailure s.fetchWord)
        { s with inputs := rest, redraw := false, pc := s.pc + 2, cycleByte := r, response := .ok } t ∧
      t.fault = some ⟨.decodeFailure s.fetchWord, s.pc⟩)

/-- 20_memory.md section 3 (addresses reduced by decision D3): the fetched word has the byte at PC as its high half and the byte at PC + 1 as its low half, each address modulo 4096, at any PC. -/
def Obligations.FetchIsBigEndian : Prop :=
  ∀ s : State, s.fetchWord.toNat =
    256 * (s.mem.read s.params.fontRom (s.pc.toNat % 4096)).toNat + (s.mem.read s.params.fontRom ((s.pc.toNat + 1) % 4096)).toNat

/-- 40_cycle.md section 2 (decisions D18, D32): which phase admits which transaction, and how the model stops on the others. -/
def Obligations.PhasesAdmitTransactions : Prop :=
  ∀ s : State,
    (∀ t, (t = .reset ∨ t = .observe) → ∃ u, transact t s = .next u) ∧
    (s.phase = .empty → (∀ r, transact (.cycle r) s = .refused .noMove) ∧
      (∀ b, ∃ u, transact (.load b) s = .next u) ∧ (∃ u, transact .tick s = .next u) ∧
      ∀ k, ∃ u, transact (.setKeys k) s = .next u) ∧
    (s.phase = .ready → (∀ b, transact (.load b) s = .refused .noMove) ∧
      (∀ r, ∃ u, transact (.cycle r) s = .next u) ∧ (∃ u, transact .tick s = .next u) ∧
      ∀ k, ∃ u, transact (.setKeys k) s = .next u) ∧
    (s.phase = .halted → ∀ t, t ≠ .reset → t ≠ .observe → transact t s = .fault .haltedCore)

/-- 60_exceptions.md R214: `Tick`, admitted in `Empty` and `Ready`, lowers each timer by one, floored at zero, and changes nothing else. -/
def Obligations.TickCountsDown : Prop :=
  ∀ s : State, (s.phase = .empty ∨ s.phase = .ready) → ∃ t, transact .tick s = .next t ∧
    t.dt.toNat = s.dt.toNat - 1 ∧ t.st.toNat = s.st.toNat - 1 ∧
    t = { s with dt := t.dt, st := t.st, response := .noOutput }

/-- 40_cycle.md R93: `SetKeys(k)` overwrites the whole keypad and changes no other state; and in every state no transaction but another `SetKeys` (or `Reset`) changes the keypad, so the snapshot holds until then. -/
def Obligations.SetKeysOverwritesKeypad : Prop :=
  ∀ (s : State) (k : Vector Bool 16), (s.phase = .empty ∨ s.phase = .ready) →
    ∃ t, transact (.setKeys k) s = .next t ∧ (∀ j : Fin 16, t.keys[j] = k[j]) ∧
      t = { s with keys := t.keys, response := .noOutput } ∧
      ∀ (x : Transaction) (r u : State), x ≠ .reset → (∀ k', x ≠ .setKeys k') → transact x r = .next u → u.keys = r.keys

/-- 40_cycle.md R94: `Observe` returns `redraw`, the pixels, `phase` and `fault`, and changes nothing (the returned values stand in the model's `response`). -/
def Obligations.ObserveChangesNothing : Prop :=
  ∀ s : State, ∃ t o, transact .observe s = .next t ∧ t = { s with response := .observed o } ∧
    o.redraw = s.redraw ∧ (∀ p : Fin 2048, o.fb.getLsbD p.val = s.fb.getLsbD p.val) ∧
    o.phase = s.phase ∧ o.fault = s.fault

/-- 70_reset_and_hazards.md section 1: `Load` in `Empty` copies an image of at most 3584 bytes to 0x200 up, leaves every other byte and all other state alone, and the core is `Ready`. -/
def Obligations.LoadCopiesImage : Prop :=
  ∀ (s : State) (bytes : List Byte), s.mem.wf s.params.fontRom = true → s.phase = .empty → bytes.length ≤ 3584 →
    ∃ t, transact (.load bytes) s = .next t ∧ t.phase = .ready ∧ t.response = .ok ∧
      (∀ (j : Nat) (h : j < bytes.length), t.memRead (0x200 + j) = bytes[j]) ∧
      (∀ a, a < 4096 → (a < 0x200 ∨ 0x200 + bytes.length ≤ a) → t.memRead a = s.memRead a) ∧
      t = { s with mem := t.mem, phase := t.phase, response := t.response }

/-- 70_reset_and_hazards.md section 1: after `Reset` and the `Load` of an image of at least two bytes, the first cycle fetches the image's first two bytes, high byte first; after an empty image it fetches the zero word, which is illegal. -/
def Obligations.FirstCycleFetchesImage : Prop :=
  (∀ (b₀ b₁ : Byte) (rest : List Byte), (b₀ :: b₁ :: rest).length ≤ 3584 →
    ∃ t, transact (.load (b₀ :: b₁ :: rest)) State.reset = .next t ∧
      t.fetchWord.toNat = 256 * b₀.toNat + b₁.toNat) ∧
  (∃ t, transact (.load []) State.reset = .next t ∧ t.fetchWord = 0 ∧
    decodeWord t.fetchWord = .error (.illegalWord 0))

/-- 60_exceptions.md section 1 (decision D17): a longer image is rejected with its length, cause 6; nothing is written, the phase stays `Empty`, the core does not halt. -/
def Obligations.OversizedLoadIsRejected : Prop :=
  ∀ (s : State) (bytes : List Byte), s.phase = .empty → 3584 < bytes.length →
    transact (.load bytes) s = .next { s with response := .rejected (.loadTooLarge bytes.length) } ∧
    causeCode (.loadTooLarge bytes.length) = 6 ∧ causeHalts (.loadTooLarge bytes.length) = false

/-- 70_reset_and_hazards.md R230: `Reset`, in every phase, sets every piece of state to its reset value; the font holds the parameter FONT_ROM of this core. -/
def Obligations.ResetRestoresEveryValue : Prop :=
  ∀ s : State, ∃ t, transact .reset s = .next t ∧
    (∀ k, t.getV k = 0) ∧ t.i = 0 ∧ t.pc = 0x200 ∧ t.sp = 0 ∧ (∀ j : Fin 16, t.stack[j] = 0) ∧
    t.dt = 0 ∧ t.st = 0 ∧ (∀ p : Fin 2048, t.fb.getLsbD p.val = false) ∧ (∀ j : Fin 16, t.keys[j] = false) ∧
    t.redraw = false ∧ t.phase = .empty ∧ t.fault = none ∧
    (∀ k : Fin 80, t.memRead (0x050 + k.val) = s.params.fontRom[k]) ∧
    (∀ a, a < 4096 → (a < 0x050 ∨ 0x09F < a) → t.memRead a = 0)

/-- 70_reset_and_hazards.md section 1 speaks of the core's state only. That `Reset` keeps the host's pending transactions, the count of free draws and the parameters is the model's choice (log entry 10). -/
def Obligations.ResetKeepsWhatIsNotTheCores : Prop :=
  ∀ s : State, ∃ t, transact .reset s = .next t ∧ t.inputs = s.inputs ∧ t.draws = s.draws ∧ t.params = s.params

/-! ### Display (41_display.md) -/

/-- 41_display.md R100: the word 0x00E0 is CLS; it turns every pixel off and sets `redraw`, and changes nothing else (VF and PC included); with every pixel off, no instruction but `Dxyn` turns one on. -/
def Obligations.ClsClearsScreen : Prop :=
  decodeWord 0x00E0#16 = .ok .cls ∧
  ∀ s : State, ∃ t, exec .cls s = .next t ∧ (∀ p : Fin 2048, t.fb.getLsbD p.val = false) ∧
    t.redraw = true ∧ t = { s with fb := t.fb, redraw := t.redraw } ∧
    ∀ (i : Instr) (r u : State), (∀ p : Fin 2048, r.fb.getLsbD p.val = false) → (∀ x y n, i ≠ .drw x y n) →
      exec i r = .next u → ∀ p : Fin 2048, u.fb.getLsbD p.val = false

/-- 41_display.md section on `Dxyn` (decisions D3, D12): each pixel under a 1 bit is inverted and no other, coordinates wrapping pixel by pixel; VF ends as 1 if a pixel went from on to off, and else, by the parameter DRW_CLEARS_VF (decision D11, log entry 7), as 0 (true, the default) or as it was (false); `redraw` is set; nothing else changes. Holds for both values of the parameter. -/
def Obligations.DrawXorsSprite : Prop :=
  ∀ (x y : RegIdx) (n : Nat) (s : State), n ≤ 15 → ∃ t, exec (.drw x y n) s = .next t ∧
    (∀ px py, px < 64 → py < 32 →
      (PixelOn t px py ↔ (PixelOn s px py ↔ ¬ SpriteLit s (s.getV x).toNat (s.getV y).toNat n px py))) ∧
    ((∃ px py, px < 64 ∧ py < 32 ∧ PixelOn s px py ∧ SpriteLit s (s.getV x).toNat (s.getV y).toNat n px py) →
      t.getV 15 = 1) ∧
    ((¬ ∃ px py, px < 64 ∧ py < 32 ∧ PixelOn s px py ∧ SpriteLit s (s.getV x).toNat (s.getV y).toNat n px py) →
      t.getV 15 = if s.params.drwClearsVf then 0 else s.getV 15) ∧
    t.redraw = true ∧ (∀ k, k ≠ 15 → t.getV k = s.getV k) ∧
    t = { s with fb := t.fb, v := t.v, redraw := t.redraw }

/-- 41_display.md section on consequences (source property S6): drawing the same sprite again at the same position restores every pixel, and the second draw leaves VF = 1 exactly when a pixel under a 1 bit was off before the first, or when VF was 1 and the parameter DRW_CLEARS_VF is false (by decision D11, log entry 7, it is true by default, and then only the first part remains). The premises say "same position"; they hold of themselves when neither coordinate is in VF. -/
def Obligations.DrawTwiceRestores : Prop :=
  ∀ (x y : RegIdx) (n : Nat) (s t : State), n ≤ 15 → exec (.drw x y n) s = .next t →
    t.getV x = s.getV x → t.getV y = s.getV y →
    ∃ u, exec (.drw x y n) t = .next u ∧ u.fb = s.fb ∧
      (u.getV 15 = 1 ↔
        (∃ px py, px < 64 ∧ py < 32 ∧
          ¬ PixelOn s px py ∧ SpriteLit s (s.getV x).toNat (s.getV y).toNat n px py) ∨
        (s.params.drwClearsVf = false ∧ t.getV 15 = 1))

/-- 00_scope.md section on parameters and 92_eei_decisions.md D11: no instruction but `Dxyn` depends on DRW_CLEARS_VF. Changing it changes nothing that any other instruction does. -/
def Obligations.OnlyDrawReadsDrwClearsVf : Prop :=
  ∀ (i : Instr) (s : State) (b : Bool), (∀ x y n, i ≠ .drw x y n) →
    exec i { s with params := { s.params with drwClearsVf := b } } =
      mapNext (fun t => { t with params := { t.params with drwClearsVf := b } }) (exec i s)

/-! ### Control transfer (42_control_flow.md) -/

/-- 42_control_flow.md R112: `1nnn` sets PC to nnn, zero-extended, and changes nothing else. -/
def Obligations.JumpSetsPc : Prop :=
  ∀ nnn : Addr12, decodeWord (0x1#4 ++ nnn) = .ok (.jp nnn) ∧
    ∀ s : State, ∃ t, exec (.jp nnn) s = .next t ∧ t.pc.toNat = nnn.toNat ∧ OnlyPc s t

/-- 42_control_flow.md section on `Bnnn` (PC kept unreduced by decision D29): PC is the exact sum of nnn and V0, whatever the x nibble; nothing else changes. -/
def Obligations.IndexedJumpAddsV0 : Prop :=
  ∀ (nnn : Addr12) (s : State), ∃ t, exec (.jpV0 nnn) s = .next t ∧
    t.pc.toNat = nnn.toNat + (s.getV 0).toNat ∧ OnlyPc s t

/-- 42_control_flow.md sections on `2nnn` and `00EE` (the faults are decisions D6, D7): CALL pushes PC and jumps where SP < 16, RET pops into PC where SP > 0 and keeps the popped entry; at SP = 16 and SP = 0 they fault and do nothing of their own. -/
def Obligations.CallPushesAndRetPops : Prop :=
  ∀ s : State,
    (∀ (nnn : Addr12) (h : s.sp.val < 16), ∃ t, exec (.call nnn) s = .next t ∧
      t.sp.val = s.sp.val + 1 ∧ t.stack[s.sp.val] = s.pc ∧ t.pc.toNat = nnn.toNat ∧
      (∀ j : Fin 16, j.val ≠ s.sp.val → t.stack[j] = s.stack[j]) ∧
      t = { s with sp := t.sp, stack := t.stack, pc := t.pc }) ∧
    (∀ nnn : Addr12, s.sp.val = 16 → ∃ t, exec (.call nnn) s = .next t ∧ FaultedFrom (.stackOverflow nnn) s t) ∧
    (∀ j : Fin 16, s.sp.val = j.val + 1 → ∃ t, exec .ret s = .next t ∧
      t.sp.val = j.val ∧ t.pc = s.stack[j] ∧ t = { s with sp := t.sp, pc := t.pc }) ∧
    (s.sp.val = 0 → ∃ t, exec .ret s = .next t ∧ FaultedFrom .stackUnderflow s t)

/-- 42_control_flow.md section on `2nnn` (source property S3): a CALL and the RET that follows it bring PC back to just past the CALL and leave SP as it was. -/
def Obligations.CallThenRetReturns : Prop :=
  ∀ (nnn : Addr12) (s t : State), s.sp.val < 16 → exec (.call nnn) s = .next t →
    ∀ pc', ∃ u, exec .ret { t with pc := pc' } = .next u ∧ u.pc = s.pc ∧ u.sp = s.sp

/-- 42_control_flow.md sections on `3xkk`, `4xkk`, `5xy0`, `9xy0`: a compare skips where its condition holds (PC moves on by 2 more, modulo 65536 by decision D2, log entry 8) and else leaves PC; nothing else changes. That `5xyn` and `9xyn` with n not 0 are refused is the spec's own resolution C3 and decision D4 (log entry 11). -/
def Obligations.CompareSkips : Prop :=
  ∀ (x y : RegIdx) (kk : Byte),
    decodeWord (0x3#4 ++ regBits x ++ kk) = .ok (.seByte x kk) ∧
    decodeWord (0x4#4 ++ regBits x ++ kk) = .ok (.sneByte x kk) ∧
    decodeWord (0x5#4 ++ regBits x ++ regBits y ++ 0x0#4) = .ok (.seReg x y) ∧
    (∀ n : BitVec 4, n ≠ 0 → ∃ e, decodeWord (0x5#4 ++ regBits x ++ regBits y ++ n) = .error e) ∧
    decodeWord (0x9#4 ++ regBits x ++ regBits y ++ 0x0#4) = .ok (.sneReg x y) ∧
    (∀ n : BitVec 4, n ≠ 0 → ∃ e, decodeWord (0x9#4 ++ regBits x ++ regBits y ++ n) = .error e) ∧
    ∀ s : State,
      (∃ t, exec (.seByte x kk) s = .next t ∧ OnlyPc s t ∧
        t.pc = if s.getV x = kk then s.pc + 2 else s.pc) ∧
      (∃ t, exec (.sneByte x kk) s = .next t ∧ OnlyPc s t ∧
        t.pc = if s.getV x ≠ kk then s.pc + 2 else s.pc) ∧
      (∃ t, exec (.seReg x y) s = .next t ∧ OnlyPc s t ∧
        t.pc = if s.getV x = s.getV y then s.pc + 2 else s.pc) ∧
      (∃ t, exec (.sneReg x y) s = .next t ∧ OnlyPc s t ∧
        t.pc = if s.getV x ≠ s.getV y then s.pc + 2 else s.pc)

/-! ### Registers and arithmetic (43_alu.md) -/

/-- 43_alu.md R131, R132, R133: load immediate, add immediate (modulo 256, no flag) and copy write `V[x]` only. -/
def Obligations.MovesAndAddImmediate : Prop :=
  ∀ (x y : RegIdx) (kk : Byte),
    decodeWord (0x6#4 ++ regBits x ++ kk) = .ok (.ldByte x kk) ∧
    decodeWord (0x7#4 ++ regBits x ++ kk) = .ok (.addByte x kk) ∧
    decodeWord (0x8#4 ++ regBits x ++ regBits y ++ 0x0#4) = .ok (.ldReg x y) ∧
    ∀ s : State,
      (∃ t, exec (.ldByte x kk) s = .next t ∧ t.getV x = kk ∧ OnlyRegs [x] s t) ∧
      (∃ t, exec (.addByte x kk) s = .next t ∧
        (t.getV x).toNat = ((s.getV x).toNat + kk.toNat) % 256 ∧ OnlyRegs [x] s t) ∧
      (∃ t, exec (.ldReg x y) s = .next t ∧ t.getV x = s.getV y ∧ OnlyRegs [x] s t)

/-- 43_alu.md sections on `8xy1`, `8xy2`, `8xy3` (VF kept by decision D15): bit by bit OR, AND, XOR into `V[x]`; every other register, VF among them unless it is `V[x]`, keeps its value. -/
def Obligations.LogicWorksBitByBit : Prop :=
  ∀ (x y : RegIdx) (s : State),
    (∃ t, exec (.orReg x y) s = .next t ∧ OnlyRegs [x] s t ∧
      ∀ j, j < 8 → (t.getV x).getLsbD j = ((s.getV x).getLsbD j || (s.getV y).getLsbD j)) ∧
    (∃ t, exec (.andReg x y) s = .next t ∧ OnlyRegs [x] s t ∧
      ∀ j, j < 8 → (t.getV x).getLsbD j = ((s.getV x).getLsbD j && (s.getV y).getLsbD j)) ∧
    (∃ t, exec (.xorReg x y) s = .next t ∧ OnlyRegs [x] s t ∧
      ∀ j, j < 8 → (t.getV x).getLsbD j = ((s.getV x).getLsbD j != (s.getV y).getLsbD j))

/-- 43_alu.md section on `8xy4`: it leaves the sum modulo 256 in `V[x]` and the carry in VF; with x = 15 VF ends as the carry (decision D10, log entry 13). -/
def Obligations.AddSetsCarry : Prop :=
  ∀ x y : RegIdx, decodeWord (0x8#4 ++ regBits x ++ regBits y ++ 0x4#4) = .ok (.addReg x y) ∧
    ∀ s : State, ∃ t, exec (.addReg x y) s = .next t ∧ OnlyRegs [x, 15] s t ∧
      (x ≠ 15 → (t.getV x).toNat = ((s.getV x).toNat + (s.getV y).toNat) % 256) ∧
      t.getV 15 = if 255 < (s.getV x).toNat + (s.getV y).toNat then 1 else 0

/-- 43_alu.md sections on `8xy5` and `8xy7`: `8xy5` and `8xy7` leave the difference modulo 256 in `V[x]` and "no borrow" in VF; with x = 15 VF ends as the flag (decision D10, log entry 13). -/
def Obligations.SubtractSetsNotBorrow : Prop :=
  ∀ x y : RegIdx,
    decodeWord (0x8#4 ++ regBits x ++ regBits y ++ 0x5#4) = .ok (.subReg x y) ∧
    decodeWord (0x8#4 ++ regBits x ++ regBits y ++ 0x7#4) = .ok (.subnReg x y) ∧
    ∀ s : State,
      (∃ t, exec (.subReg x y) s = .next t ∧ OnlyRegs [x, 15] s t ∧
        (x ≠ 15 → (t.getV x).toNat = ((s.getV x).toNat + 256 - (s.getV y).toNat) % 256) ∧
        t.getV 15 = if (s.getV y).toNat ≤ (s.getV x).toNat then 1 else 0) ∧
      (∃ t, exec (.subnReg x y) s = .next t ∧ OnlyRegs [x, 15] s t ∧
        (x ≠ 15 → (t.getV x).toNat = ((s.getV y).toNat + 256 - (s.getV x).toNat) % 256) ∧
        t.getV 15 = if (s.getV x).toNat ≤ (s.getV y).toNat then 1 else 0)

/-- 43_alu.md sections on `8xy6` and `8xyE`: `8xy6` and `8xyE` shift `V[x]` by one whatever `y` is, and leave the bit shifted out in VF; with x = 15 VF ends as that bit (resolution C4 and decision D10, log entry 13). -/
def Obligations.ShiftsMoveOneBit : Prop :=
  ∀ x y : RegIdx,
    decodeWord (0x8#4 ++ regBits x ++ regBits y ++ 0x6#4) = .ok (.shr x y) ∧
    decodeWord (0x8#4 ++ regBits x ++ regBits y ++ 0xE#4) = .ok (.shl x y) ∧
    ∀ s : State,
      (∃ t, exec (.shr x y) s = .next t ∧ OnlyRegs [x, 15] s t ∧
        (x ≠ 15 → (t.getV x).toNat = (s.getV x).toNat / 2) ∧ (t.getV 15).toNat = (s.getV x).toNat % 2) ∧
      (∃ t, exec (.shl x y) s = .next t ∧ OnlyRegs [x, 15] s t ∧
        (x ≠ 15 → (t.getV x).toNat = 2 * (s.getV x).toNat % 256) ∧ (t.getV 15).toNat = (s.getV x).toNat / 128)

/-- 43_alu.md section on `Cxkk` (the byte is free by decision D16): `V[x]` is the draw masked by kk, the host's byte where it gives one and else the free byte of this draw, which is then counted.
A statement about a free value: it holds for every value of `Config.randomByte`. -/
def Obligations.RandomByteIsMasked : Prop :=
  ∀ (x : RegIdx) (kk : Byte) (s : State),
    (∀ r, s.cycleByte = some r → ∃ t, exec (.rnd x kk) s = .next t ∧ t.getV x = r &&& kk ∧ OnlyRegs [x] s t) ∧
    (s.cycleByte = none → ∃ t, exec (.rnd x kk) s = .next t ∧
      t.getV x = Config.randomByte s.draws &&& kk ∧ OnlyRegs [x] { s with draws := s.draws + 1 } t) ∧
    (∃ t, exec (.rnd x kk) s = .next t ∧ ∀ j, j < 8 → kk.getLsbD j = false → (t.getV x).getLsbD j = false)

/-! ### Index register and memory (44_index_memory.md) -/

/-- 44_index_memory.md R150: `Annn` sets I to nnn, zero-extended, and changes nothing else. -/
def Obligations.LoadIndexSetsI : Prop :=
  ∀ nnn : Addr12, decodeWord (0xA#4 ++ nnn) = .ok (.ldI nnn) ∧
    ∀ s : State, ∃ t, exec (.ldI nnn) s = .next t ∧ t.i.toNat = nnn.toNat ∧ OnlyIndex s t

/-- 44_index_memory.md sections on `Fx1E` (no flag by decision D15) and `Fx29` (no masking by decision D25): I + Vx modulo 65536, and Vx * 5 + 0x050; nothing else changes, VF included. -/
def Obligations.IndexAddAndGlyph : Prop :=
  ∀ (x : RegIdx) (s : State),
    (∃ t, exec (.addI x) s = .next t ∧ t.i.toNat = (s.i.toNat + (s.getV x).toNat) % 65536 ∧ OnlyIndex s t) ∧
    (∃ t, exec (.ldF x) s = .next t ∧ t.i.toNat = (s.getV x).toNat * 5 + 0x050 ∧ OnlyIndex s t)

/-- 44_index_memory.md section on `Fx33` (addresses reduced by decision D3): with no target in the font, the three decimal digits of `V[x]` land at I, I + 1, I + 2, and every other byte and all other state stay. -/
def Obligations.BcdStoresDigits : Prop :=
  ∀ (x : RegIdx) (s : State), s.mem.wf s.params.fontRom = true → firstFontTarget s.i.toNat 3 = none →
    ∃ t, exec (.bcd x) s = .next t ∧ OnlyBytes s.i.toNat 3 s t ∧
      (t.memRead s.i.toNat).toNat = (s.getV x).toNat / 100 ∧
      (t.memRead (s.i.toNat + 1)).toNat = (s.getV x).toNat / 10 % 10 ∧
      (t.memRead (s.i.toNat + 2)).toNat = (s.getV x).toNat % 10

/-- 44_index_memory.md section on `Fx55` (addresses reduced by decision D3; I kept by decision D14): with no target in the font, V0 to Vx land at I up, and every other byte and all other state stay. -/
def Obligations.StoreRegsStoresBlock : Prop :=
  ∀ (x : RegIdx) (s : State), s.mem.wf s.params.fontRom = true → firstFontTarget s.i.toNat (x.val + 1) = none →
    ∃ t, exec (.storeRegs x) s = .next t ∧ OnlyBytes s.i.toNat (x.val + 1) s t ∧
      ∀ k : RegIdx, k ≤ x → t.memRead (s.i.toNat + k.val) = s.getV k

/-- 44_index_memory.md section on `Fx65` (addresses reduced by decision D3; I kept by decision D14): V0 to Vx receive the bytes at I up; the registers above Vx and all other state stay. -/
def Obligations.LoadRegsLoadsBlock : Prop :=
  ∀ (x : RegIdx) (s : State), ∃ t, exec (.loadRegs x) s = .next t ∧ t = { s with v := t.v } ∧
    (∀ k : RegIdx, k ≤ x → t.getV k = s.mem.read s.params.fontRom ((s.i.toNat + k.val) % 4096)) ∧
    (∀ k : RegIdx, x < k → t.getV k = s.getV k)

/-- 44_index_memory.md section on `Fx65` (source property S8): what `Fx55` stored, `Fx65` with the same x loads back, whatever the registers held in between. The load runs on the I that the store left, which is the I it had (decision D14, log entry 15). -/
def Obligations.StoreThenLoadRestoresRegs : Prop :=
  ∀ (x : RegIdx) (s t : State) (clobbered : Vector Byte 16), s.mem.wf s.params.fontRom = true →
    firstFontTarget s.i.toNat (x.val + 1) = none → exec (.storeRegs x) s = .next t →
    ∃ u, exec (.loadRegs x) { t with v := clobbered } = .next u ∧ ∀ k : RegIdx, k ≤ x → u.getV k = s.getV k

/-- 60_exceptions.md section on `FontWrite` (decisions D8, D19): if a target of `Fx33` or `Fx55` lies in the font, the instruction faults naming the first such target, and writes no byte. -/
def Obligations.FontStoreFaults : Prop :=
  ∀ (x : RegIdx) (s : State) (k : Nat),
    0x050 ≤ (s.i.toNat + k) % 4096 → (s.i.toNat + k) % 4096 ≤ 0x09F →
    (∀ j, j < k → ¬ (0x050 ≤ (s.i.toNat + j) % 4096 ∧ (s.i.toNat + j) % 4096 ≤ 0x09F)) →
    (k < 3 → ∃ t, exec (.bcd x) s = .next t ∧ FaultedFrom (.fontWrite ((s.i.toNat + k) % 4096)) s t) ∧
    (k ≤ x.val → ∃ t, exec (.storeRegs x) s = .next t ∧ FaultedFrom (.fontWrite ((s.i.toNat + k) % 4096)) s t)

/-- 20_memory.md section 5: a byte that `Fx55` or `Fx33` (the two instructions that store) stores where the next cycle fetches is the byte that cycle fetches, as the high half (20_memory.md section 3) or the low half of its word. Targets and fetch addresses are reduced modulo 4096 by decision D3 (log entry 9). -/
def Obligations.StoredByteIsFetched : Prop :=
  ∀ (x : RegIdx) (s t : State), s.mem.wf s.params.fontRom = true →
    (firstFontTarget s.i.toNat (x.val + 1) = none → exec (.storeRegs x) s = .next t → ∀ k : RegIdx, k ≤ x →
      ((s.i.toNat + k.val) % 4096 = t.pc.toNat % 4096 → t.fetchWord.toNat / 256 = (s.getV k).toNat) ∧
      ((s.i.toNat + k.val) % 4096 = (t.pc.toNat + 1) % 4096 → t.fetchWord.toNat % 256 = (s.getV k).toNat)) ∧
    (firstFontTarget s.i.toNat 3 = none → exec (.bcd x) s = .next t → ∀ k, k < 3 →
      ((s.i.toNat + k) % 4096 = t.pc.toNat % 4096 →
        t.fetchWord.toNat / 256 = (s.getV x).toNat / 10 ^ (2 - k) % 10) ∧
      ((s.i.toNat + k) % 4096 = (t.pc.toNat + 1) % 4096 →
        t.fetchWord.toNat % 256 = (s.getV x).toNat / 10 ^ (2 - k) % 10))

/-! ### Keypad and timers (45_keypad_timers.md) -/

/-- 45_keypad_timers.md sections on `Ex9E` and `ExA1` (the fault is decision D9): with `V[x]` at most 15 exactly one of the two skips, by the key's state; above 15 both fault with that value. -/
def Obligations.KeySkips : Prop :=
  ∀ (x : RegIdx) (s : State),
    (∀ k : Fin 16, (s.getV x).toNat = k.val →
      (∃ t, exec (.skp x) s = .next t ∧ OnlyPc s t ∧ t.pc = if s.keys[k] = true then s.pc + 2 else s.pc) ∧
      (∃ t, exec (.sknp x) s = .next t ∧ OnlyPc s t ∧ t.pc = if s.keys[k] = false then s.pc + 2 else s.pc)) ∧
    (15 < (s.getV x).toNat →
      (∃ t, exec (.skp x) s = .next t ∧ FaultedFrom (.keyIndexOutOfRange (s.getV x)) s t) ∧
      (∃ t, exec (.sknp x) s = .next t ∧ FaultedFrom (.keyIndexOutOfRange (s.getV x)) s t))

/-- 45_keypad_timers.md section on `Fx0A` (level-sensitive by decision D24): with a key pressed, `V[x]` receives the least pressed key and nothing else changes; with none, PC goes back by 2 and nothing else changes. -/
def Obligations.WaitTakesLeastKey : Prop :=
  ∀ (x : RegIdx) (s : State),
    (∀ k : Fin 16, s.keys[k] = true → (∀ j : Fin 16, j < k → s.keys[j] = false) →
      ∃ t, exec (.ldVxK x) s = .next t ∧ (t.getV x).toNat = k.val ∧ OnlyRegs [x] s t) ∧
    ((∀ k : Fin 16, s.keys[k] = false) →
      ∃ t, exec (.ldVxK x) s = .next t ∧ t.pc = s.pc - 2 ∧ OnlyPc s t)

/-- 45_keypad_timers.md section on the wait: a cycle that waits is an ordinary cycle that clears `redraw` and leaves PC and all the rest of the core as they were. The free byte of the cycle and the response are the model's own (log entries 2 and 3). -/
def Obligations.WaitingCycleDoesNothing : Prop :=
  ∀ (x : RegIdx) (s : State), s.phase = .ready → s.inputs = [] → decodeWord s.fetchWord = .ok (.ldVxK x) →
    (∀ k : Fin 16, s.keys[k] = false) →
    step s = .next { s with redraw := false, cycleByte := none, response := .ok }

/-- 45_keypad_timers.md R173, R176, R177: DT to `V[x]`, `V[x]` to DT, `V[x]` to ST; nothing else changes. -/
def Obligations.TimerMoves : Prop :=
  ∀ x : RegIdx,
    decodeWord (0xF#4 ++ regBits x ++ 0x07#8) = .ok (.ldVxDt x) ∧
    decodeWord (0xF#4 ++ regBits x ++ 0x15#8) = .ok (.ldDtVx x) ∧
    decodeWord (0xF#4 ++ regBits x ++ 0x18#8) = .ok (.ldStVx x) ∧
    ∀ s : State,
      (∃ t, exec (.ldVxDt x) s = .next t ∧ t.getV x = s.dt ∧ OnlyRegs [x] s t) ∧
      (∃ t, exec (.ldDtVx x) s = .next t ∧ t.dt = s.getV x ∧ t = { s with dt := t.dt }) ∧
      (∃ t, exec (.ldStVx x) s = .next t ∧ t.st = s.getV x ∧ t = { s with st := t.st })

/-! ### The whole machine -/

/-- 40_cycle.md section on termination: every instruction, in every state, answers a next state, and so does every transaction that the phase admits. -/
def Obligations.EveryTransactionAnswers : Prop :=
  (∀ (i : Instr) (s : State), ∃ t, exec i s = .next t) ∧
  (∀ (x : Transaction) (s : State), admitted x s.phase = true → ∃ t, transact x s = .next t)

/-- 10_state.md section 2: where every instruction leaves PC, each skip with its condition, from the PC the fetch left (two past the instruction). Only the forms that `MayFault` names can halt the core, and an instruction that does leaves PC.
PC has 16 bits (decision D2), every sum is modulo 65536, and `Bnnn` leaves the sum unreduced (decision D29; log entry 8). The faults of RET, CALL and the key tests are decisions D6, D7, D9 (log entry 11), the level-sensitive wait D24 (log entry 15). -/
def Obligations.PcAfterEachInstruction : Prop :=
  ∀ (i : Instr) (s t : State), exec i s = .next t →
    (t.phase ≠ s.phase → MayFault i ∧ t.phase = .halted ∧ t.pc = s.pc) ∧
    match i with
    | .jp nnn => t.pc.toNat = nnn.toNat
    | .jpV0 nnn => t.pc.toNat = nnn.toNat + (s.getV 0).toNat
    | .call nnn => if s.sp.val = 16 then t.pc = s.pc else t.pc.toNat = nnn.toNat
    | .ret => (s.sp.val = 0 → t.pc = s.pc) ∧ ∀ j : Fin 16, s.sp.val = j.val + 1 → t.pc = s.stack[j]
    | .seByte x kk => t.pc = if s.getV x = kk then s.pc + 2 else s.pc
    | .sneByte x kk => t.pc = if s.getV x ≠ kk then s.pc + 2 else s.pc
    | .seReg x y => t.pc = if s.getV x = s.getV y then s.pc + 2 else s.pc
    | .sneReg x y => t.pc = if s.getV x ≠ s.getV y then s.pc + 2 else s.pc
    | .skp x => (15 < (s.getV x).toNat → t.pc = s.pc) ∧
        ∀ k : Fin 16, (s.getV x).toNat = k.val → t.pc = if s.keys[k] = true then s.pc + 2 else s.pc
    | .sknp x => (15 < (s.getV x).toNat → t.pc = s.pc) ∧
        ∀ k : Fin 16, (s.getV x).toNat = k.val → t.pc = if s.keys[k] = false then s.pc + 2 else s.pc
    | .ldVxK _ => ((∀ k : Fin 16, s.keys[k] = false) → t.pc = s.pc - 2) ∧
        ((∃ k : Fin 16, s.keys[k] = true) → t.pc = s.pc)
    | _ => t.pc = s.pc

/-- 41_display.md section on consequences and 10_state.md section 4: no instruction but `00E0` and `Dxyn` changes the framebuffer or `redraw`, and those two always set `redraw`. -/
def Obligations.OnlyDisplayTouchesScreen : Prop :=
  ∀ (i : Instr) (s t : State), exec i s = .next t →
    match i with
    | .cls => t.redraw = true
    | .drw _ _ _ => t.redraw = true
    | _ => t.fb = s.fb ∧ t.redraw = s.redraw

/-- 10_state.md section 6 (decisions D10, D11, D15): VF as a side effect is written by `8xy4` to `8xy7`, `8xyE` and `Dxyn` only, and then holds 0 or 1 (where the parameter DRW_CLEARS_VF is false, a `Dxyn` with no collision leaves VF alone); any other instruction changes VF only as its named destination (x = 15). -/
def Obligations.FlagWriters : Prop :=
  ∀ (i : Instr) (s t : State), exec i s = .next t →
    match i with
    | .addReg _ _ => t.getV 15 = 0 ∨ t.getV 15 = 1
    | .subReg _ _ => t.getV 15 = 0 ∨ t.getV 15 = 1
    | .shr _ _ => t.getV 15 = 0 ∨ t.getV 15 = 1
    | .subnReg _ _ => t.getV 15 = 0 ∨ t.getV 15 = 1
    | .shl _ _ => t.getV 15 = 0 ∨ t.getV 15 = 1
    | .drw _ _ _ => t.getV 15 = 1 ∨ t.getV 15 = if s.params.drwClearsVf then 0 else s.getV 15
    | .ldByte x _ => x ≠ 15 → t.getV 15 = s.getV 15
    | .addByte x _ => x ≠ 15 → t.getV 15 = s.getV 15
    | .ldReg x _ => x ≠ 15 → t.getV 15 = s.getV 15
    | .orReg x _ => x ≠ 15 → t.getV 15 = s.getV 15
    | .andReg x _ => x ≠ 15 → t.getV 15 = s.getV 15
    | .xorReg x _ => x ≠ 15 → t.getV 15 = s.getV 15
    | .rnd x _ => x ≠ 15 → t.getV 15 = s.getV 15
    | .ldVxDt x => x ≠ 15 → t.getV 15 = s.getV 15
    | .ldVxK x => x ≠ 15 → t.getV 15 = s.getV 15
    | .loadRegs x => x ≠ 15 → t.getV 15 = s.getV 15
    | _ => t.v = s.v

/-- 10_state.md section 3 and section 7: I is written by `Annn`, `Fx1E`, `Fx29` only (that `Fx55` and `Fx65` leave it is decision D14, log entry 15); the stack and SP by `2nnn` and `00EE` only (and an entry by `2nnn` only); DT by `Fx15`, ST by `Fx18`; memory by `Fx33` and `Fx55`; no instruction writes the keypad, nor the parameters, nor the host's pending transactions. -/
def Obligations.RegisterWriters : Prop :=
  ∀ (i : Instr) (s t : State), exec i s = .next t →
    (t.i = s.i ∨ (∃ a, i = .ldI a) ∨ (∃ x, i = .addI x) ∨ ∃ x, i = .ldF x) ∧
    (t.sp = s.sp ∨ i = .ret ∨ ∃ a, i = .call a) ∧
    (t.stack = s.stack ∨ ∃ a, i = .call a) ∧
    (t.dt = s.dt ∨ ∃ x, i = .ldDtVx x) ∧
    (t.st = s.st ∨ ∃ x, i = .ldStVx x) ∧
    (t.mem = s.mem ∨ (∃ x, i = .bcd x) ∨ ∃ x, i = .storeRegs x) ∧
    t.keys = s.keys ∧ t.params = s.params ∧ t.inputs = s.inputs

/-- 60_exceptions.md section on fault entry (decisions D18, D19): whenever an instruction halts a running core, the state is the one before its own effects with the phase, the record and the response replaced, the record names the instruction's address and a cause that halts; and only RET, CALL, BCD, the register store and the key tests can do so. -/
def Obligations.FaultsArePrecise : Prop :=
  ∀ (i : Instr) (s t : State), exec i s = .next t → s.phase ≠ .halted → t.phase = .halted →
    (∃ c, FaultedFrom c s t ∧ causeHalts c = true) ∧
    MayFault i

/-- 60_exceptions.md section on returning (decision D18): a step of a halted core is a `Reset`, an `Observe` that leaves the core and its record as they are, or the fault `haltedCore`. -/
def Obligations.HaltedStaysHalted : Prop :=
  ∀ s : State, s.phase = .halted →
    (∃ rest, s.inputs = .reset :: rest ∧ ∃ t, step s = .next t ∧ t.phase = .empty ∧ t.fault = none) ∨
    (∃ rest, s.inputs = .observe :: rest ∧ ∃ r, step s = .next { s with inputs := rest, response := r }) ∨
    step s = .fault .haltedCore

/-- 10_state.md section 3: no instruction reads ST. Changing ST before an instruction changes nothing after it but ST, and not even that where the instruction is `Fx18`. -/
def Obligations.SoundTimerIsNeverRead : Prop :=
  ∀ (i : Instr) (s : State) (z : Byte),
    exec i { s with st := z } = mapNext (fun t => { t with st := match i with | .ldStVx _ => t.st | _ => z }) (exec i s)

/-- 40_cycle.md section 2: the byte of the cycle is used only by `Cxkk`. Changing it, or the number of the free draw, changes nothing that any other instruction does. -/
def Obligations.OnlyRndReadsTheByte : Prop :=
  ∀ (i : Instr) (s : State) (r : Option Byte) (d : Nat), (∀ x kk, i ≠ .rnd x kk) →
    exec i { s with cycleByte := r, draws := d } = mapNext (fun t => { t with cycleByte := r, draws := d }) (exec i s)

/-- The invariant holds at reset (10_state.md section 8, section 10), with the default parameters and with any others. -/
def Obligations.InvariantHoldsAtReset : Prop :=
  State.reset.Inv ∧ ∀ p : Params, { State.reset with params := p }.Inv

/-- 00_scope.md section on parameters: FONT_ROM and DRW_CLEARS_VF are fixed for the core. No step of any kind changes them, `Reset` included (its keeping them is log entry 10). -/
def Obligations.ParametersNeverChange : Prop :=
  ∀ s t : State, step s = .next t → t.params = s.params

/-- 10_state.md section 10 (the font is enforced by decision D8), 60_exceptions.md section on fault entry: from every state that meets the invariant, a step that answers a next state meets it again: memory stays canonical, the font keeps its bytes, and a core is halted exactly with a record that fits its PC. -/
def Obligations.StepKeepsInvariant : Prop :=
  ∀ s t : State, s.Inv → step s = .next t → t.Inv
end

