-- ==== Sys2Proof/Laws/Config.lean ====
section
/-! SUPPORT. The fixed sizes as numbers, for simp and omega; addresses and the font in plain arithmetic. -/

namespace Sys2Proof

@[simp] theorem Config.memSize_eq : Config.memSize = 4096 := rfl
@[simp] theorem Config.entry_eq : Config.entry = 0x200 := rfl
@[simp] theorem Config.maxImage_eq : Config.maxImage = 3584 := rfl
@[simp] theorem Config.fontBase_eq : Config.fontBase = 0x050 := rfl
@[simp] theorem Config.fontLast_eq : Config.fontLast = 0x09F := rfl
@[simp] theorem Config.glyphBytes_eq : Config.glyphBytes = 5 := rfl
@[simp] theorem Config.screenW_eq : Config.screenW = 64 := rfl
@[simp] theorem Config.screenH_eq : Config.screenH = 32 := rfl
@[simp] theorem Config.maxSpriteRows_eq : Config.maxSpriteRows = 15 := rfl
@[simp] theorem Config.stackDepth_eq : Config.stackDepth = 16 := rfl

namespace Machine

/-- `Reduce` is the remainder modulo 4096 (R52). -/
theorem reduce_eq (a : Nat) : reduce a = a % 4096 := rfl

theorem reduce_lt (a : Nat) : reduce a < 4096 := Nat.mod_lt _ (by decide)

@[simp] theorem reduce_reduce (a : Nat) : reduce (reduce a) = reduce a := Nat.mod_mod _ _

/-- The font is 0x050 to 0x09F (R51). -/
theorem inFont_iff (a : Nat) : inFont a = true ↔ 0x050 ≤ a ∧ a ≤ 0x09F := by simp [inFont]

theorem inFont_eq_false_iff (a : Nat) : inFont a = false ↔ ¬ (0x050 ≤ a ∧ a ≤ 0x09F) := by
  rw [← inFont_iff, Bool.not_eq_true]

/-- Outside the font memory is zero at reset, in it FONT_ROM (R37). -/
theorem resetByte_eq (rom : FontRom) (a : Nat) :
    resetByte rom a = if 0x050 ≤ a ∧ a ≤ 0x09F then rom.toList.getD (a - 0x050) 0 else 0 := by
  simp only [resetByte, inFont_iff]

/-- In the font memory is FONT_ROM's byte at reset (R33, R37). -/
theorem resetByte_font (rom : FontRom) {a : Nat} (h : 0x050 ≤ a ∧ a ≤ 0x09F) :
    resetByte rom a = rom[a - 0x050] := by
  have hk : a - 0x050 < 80 := by omega
  rw [resetByte_eq, if_pos h, List.getD_eq_getElem _ _ (by simpa using hk)]
  simp

/-- Outside the font memory is zero at reset (R37). -/
theorem resetByte_zero (rom : FontRom) {a : Nat} (h : ¬ (0x050 ≤ a ∧ a ≤ 0x09F)) : resetByte rom a = 0 := by
  rw [resetByte_eq, if_neg h]

end Machine

end Sys2Proof
end

