-- ==== Sys2Proof/Laws/State.lean ====
section
/-! SUPPORT. One lemma per field per named update of State, each true by rfl, so that no later proof unfolds an update. -/

namespace Sys2Proof.Machine

variable (s : State)

/-! ### `setV` -/

@[simp] theorem setV_v (x : RegIdx) (b : Byte) : (s.setV x b).v = s.v.set x b := rfl
@[simp] theorem setV_i (x : RegIdx) (b : Byte) : (s.setV x b).i = s.i := rfl
@[simp] theorem setV_pc (x : RegIdx) (b : Byte) : (s.setV x b).pc = s.pc := rfl
@[simp] theorem setV_stack (x : RegIdx) (b : Byte) : (s.setV x b).stack = s.stack := rfl
@[simp] theorem setV_sp (x : RegIdx) (b : Byte) : (s.setV x b).sp = s.sp := rfl
@[simp] theorem setV_dt (x : RegIdx) (b : Byte) : (s.setV x b).dt = s.dt := rfl
@[simp] theorem setV_st (x : RegIdx) (b : Byte) : (s.setV x b).st = s.st := rfl
@[simp] theorem setV_mem (x : RegIdx) (b : Byte) : (s.setV x b).mem = s.mem := rfl
@[simp] theorem setV_fb (x : RegIdx) (b : Byte) : (s.setV x b).fb = s.fb := rfl
@[simp] theorem setV_keys (x : RegIdx) (b : Byte) : (s.setV x b).keys = s.keys := rfl
@[simp] theorem setV_redraw (x : RegIdx) (b : Byte) : (s.setV x b).redraw = s.redraw := rfl
@[simp] theorem setV_phase (x : RegIdx) (b : Byte) : (s.setV x b).phase = s.phase := rfl
@[simp] theorem setV_fault (x : RegIdx) (b : Byte) : (s.setV x b).fault = s.fault := rfl
@[simp] theorem setV_params (x : RegIdx) (b : Byte) : (s.setV x b).params = s.params := rfl
@[simp] theorem setV_inputs (x : RegIdx) (b : Byte) : (s.setV x b).inputs = s.inputs := rfl
@[simp] theorem setV_response (x : RegIdx) (b : Byte) : (s.setV x b).response = s.response := rfl
@[simp] theorem setV_cycleByte (x : RegIdx) (b : Byte) : (s.setV x b).cycleByte = s.cycleByte := rfl
@[simp] theorem setV_draws (x : RegIdx) (b : Byte) : (s.setV x b).draws = s.draws := rfl

/-! ### `setResultFlag` -/

@[simp] theorem setResultFlag_v (x : RegIdx) (r f : Byte) : (s.setResultFlag x r f).v = (s.v.set x r).set vf f := rfl
@[simp] theorem setResultFlag_i (x : RegIdx) (r f : Byte) : (s.setResultFlag x r f).i = s.i := rfl
@[simp] theorem setResultFlag_pc (x : RegIdx) (r f : Byte) : (s.setResultFlag x r f).pc = s.pc := rfl
@[simp] theorem setResultFlag_stack (x : RegIdx) (r f : Byte) : (s.setResultFlag x r f).stack = s.stack := rfl
@[simp] theorem setResultFlag_sp (x : RegIdx) (r f : Byte) : (s.setResultFlag x r f).sp = s.sp := rfl
@[simp] theorem setResultFlag_dt (x : RegIdx) (r f : Byte) : (s.setResultFlag x r f).dt = s.dt := rfl
@[simp] theorem setResultFlag_st (x : RegIdx) (r f : Byte) : (s.setResultFlag x r f).st = s.st := rfl
@[simp] theorem setResultFlag_mem (x : RegIdx) (r f : Byte) : (s.setResultFlag x r f).mem = s.mem := rfl
@[simp] theorem setResultFlag_fb (x : RegIdx) (r f : Byte) : (s.setResultFlag x r f).fb = s.fb := rfl
@[simp] theorem setResultFlag_keys (x : RegIdx) (r f : Byte) : (s.setResultFlag x r f).keys = s.keys := rfl
@[simp] theorem setResultFlag_redraw (x : RegIdx) (r f : Byte) : (s.setResultFlag x r f).redraw = s.redraw := rfl
@[simp] theorem setResultFlag_phase (x : RegIdx) (r f : Byte) : (s.setResultFlag x r f).phase = s.phase := rfl
@[simp] theorem setResultFlag_fault (x : RegIdx) (r f : Byte) : (s.setResultFlag x r f).fault = s.fault := rfl
@[simp] theorem setResultFlag_params (x : RegIdx) (r f : Byte) : (s.setResultFlag x r f).params = s.params := rfl
@[simp] theorem setResultFlag_inputs (x : RegIdx) (r f : Byte) : (s.setResultFlag x r f).inputs = s.inputs := rfl
@[simp] theorem setResultFlag_response (x : RegIdx) (r f : Byte) : (s.setResultFlag x r f).response = s.response := rfl
@[simp] theorem setResultFlag_cycleByte (x : RegIdx) (r f : Byte) : (s.setResultFlag x r f).cycleByte = s.cycleByte := rfl
@[simp] theorem setResultFlag_draws (x : RegIdx) (r f : Byte) : (s.setResultFlag x r f).draws = s.draws := rfl

/-! ### `skipIf` -/

@[simp] theorem skipIf_v (c : Bool) : (s.skipIf c).v = s.v := rfl
@[simp] theorem skipIf_i (c : Bool) : (s.skipIf c).i = s.i := rfl
@[simp] theorem skipIf_pc (c : Bool) : (s.skipIf c).pc = if c then s.pc + 2 else s.pc := rfl
@[simp] theorem skipIf_stack (c : Bool) : (s.skipIf c).stack = s.stack := rfl
@[simp] theorem skipIf_sp (c : Bool) : (s.skipIf c).sp = s.sp := rfl
@[simp] theorem skipIf_dt (c : Bool) : (s.skipIf c).dt = s.dt := rfl
@[simp] theorem skipIf_st (c : Bool) : (s.skipIf c).st = s.st := rfl
@[simp] theorem skipIf_mem (c : Bool) : (s.skipIf c).mem = s.mem := rfl
@[simp] theorem skipIf_fb (c : Bool) : (s.skipIf c).fb = s.fb := rfl
@[simp] theorem skipIf_keys (c : Bool) : (s.skipIf c).keys = s.keys := rfl
@[simp] theorem skipIf_redraw (c : Bool) : (s.skipIf c).redraw = s.redraw := rfl
@[simp] theorem skipIf_phase (c : Bool) : (s.skipIf c).phase = s.phase := rfl
@[simp] theorem skipIf_fault (c : Bool) : (s.skipIf c).fault = s.fault := rfl
@[simp] theorem skipIf_params (c : Bool) : (s.skipIf c).params = s.params := rfl
@[simp] theorem skipIf_inputs (c : Bool) : (s.skipIf c).inputs = s.inputs := rfl
@[simp] theorem skipIf_response (c : Bool) : (s.skipIf c).response = s.response := rfl
@[simp] theorem skipIf_cycleByte (c : Bool) : (s.skipIf c).cycleByte = s.cycleByte := rfl
@[simp] theorem skipIf_draws (c : Bool) : (s.skipIf c).draws = s.draws := rfl

/-! ### `enterFault` -/

@[simp] theorem enterFault_v (c : Cause) : (s.enterFault c).v = s.v := rfl
@[simp] theorem enterFault_i (c : Cause) : (s.enterFault c).i = s.i := rfl
@[simp] theorem enterFault_pc (c : Cause) : (s.enterFault c).pc = s.pc := rfl
@[simp] theorem enterFault_stack (c : Cause) : (s.enterFault c).stack = s.stack := rfl
@[simp] theorem enterFault_sp (c : Cause) : (s.enterFault c).sp = s.sp := rfl
@[simp] theorem enterFault_dt (c : Cause) : (s.enterFault c).dt = s.dt := rfl
@[simp] theorem enterFault_st (c : Cause) : (s.enterFault c).st = s.st := rfl
@[simp] theorem enterFault_mem (c : Cause) : (s.enterFault c).mem = s.mem := rfl
@[simp] theorem enterFault_fb (c : Cause) : (s.enterFault c).fb = s.fb := rfl
@[simp] theorem enterFault_keys (c : Cause) : (s.enterFault c).keys = s.keys := rfl
@[simp] theorem enterFault_redraw (c : Cause) : (s.enterFault c).redraw = s.redraw := rfl
@[simp] theorem enterFault_phase (c : Cause) : (s.enterFault c).phase = .halted := rfl
@[simp] theorem enterFault_fault (c : Cause) : (s.enterFault c).fault = some ⟨c, s.insnAddr⟩ := rfl
@[simp] theorem enterFault_params (c : Cause) : (s.enterFault c).params = s.params := rfl
@[simp] theorem enterFault_inputs (c : Cause) : (s.enterFault c).inputs = s.inputs := rfl
@[simp] theorem enterFault_response (c : Cause) : (s.enterFault c).response = .faulted ⟨c, s.insnAddr⟩ := rfl
@[simp] theorem enterFault_cycleByte (c : Cause) : (s.enterFault c).cycleByte = s.cycleByte := rfl
@[simp] theorem enterFault_draws (c : Cause) : (s.enterFault c).draws = s.draws := rfl

/-! ### `restart` -/

@[simp] theorem restart_v : (s.restart).v = State.reset.v := rfl
@[simp] theorem restart_i : (s.restart).i = State.reset.i := rfl
@[simp] theorem restart_pc : (s.restart).pc = State.reset.pc := rfl
@[simp] theorem restart_stack : (s.restart).stack = State.reset.stack := rfl
@[simp] theorem restart_sp : (s.restart).sp = State.reset.sp := rfl
@[simp] theorem restart_dt : (s.restart).dt = State.reset.dt := rfl
@[simp] theorem restart_st : (s.restart).st = State.reset.st := rfl
@[simp] theorem restart_mem : (s.restart).mem = State.reset.mem := rfl
@[simp] theorem restart_fb : (s.restart).fb = State.reset.fb := rfl
@[simp] theorem restart_keys : (s.restart).keys = State.reset.keys := rfl
@[simp] theorem restart_redraw : (s.restart).redraw = State.reset.redraw := rfl
@[simp] theorem restart_phase : (s.restart).phase = State.reset.phase := rfl
@[simp] theorem restart_fault : (s.restart).fault = State.reset.fault := rfl
@[simp] theorem restart_params : (s.restart).params = s.params := rfl
@[simp] theorem restart_inputs : (s.restart).inputs = s.inputs := rfl
@[simp] theorem restart_response : (s.restart).response = State.reset.response := rfl
@[simp] theorem restart_cycleByte : (s.restart).cycleByte = State.reset.cycleByte := rfl
@[simp] theorem restart_draws : (s.restart).draws = s.draws := rfl

/-! ### `beginCycle` -/

@[simp] theorem beginCycle_v (r : Option Byte) : (s.beginCycle r).v = s.v := rfl
@[simp] theorem beginCycle_i (r : Option Byte) : (s.beginCycle r).i = s.i := rfl
@[simp] theorem beginCycle_pc (r : Option Byte) : (s.beginCycle r).pc = s.pc + 2 := rfl
@[simp] theorem beginCycle_stack (r : Option Byte) : (s.beginCycle r).stack = s.stack := rfl
@[simp] theorem beginCycle_sp (r : Option Byte) : (s.beginCycle r).sp = s.sp := rfl
@[simp] theorem beginCycle_dt (r : Option Byte) : (s.beginCycle r).dt = s.dt := rfl
@[simp] theorem beginCycle_st (r : Option Byte) : (s.beginCycle r).st = s.st := rfl
@[simp] theorem beginCycle_mem (r : Option Byte) : (s.beginCycle r).mem = s.mem := rfl
@[simp] theorem beginCycle_fb (r : Option Byte) : (s.beginCycle r).fb = s.fb := rfl
@[simp] theorem beginCycle_keys (r : Option Byte) : (s.beginCycle r).keys = s.keys := rfl
@[simp] theorem beginCycle_redraw (r : Option Byte) : (s.beginCycle r).redraw = false := rfl
@[simp] theorem beginCycle_phase (r : Option Byte) : (s.beginCycle r).phase = s.phase := rfl
@[simp] theorem beginCycle_fault (r : Option Byte) : (s.beginCycle r).fault = s.fault := rfl
@[simp] theorem beginCycle_params (r : Option Byte) : (s.beginCycle r).params = s.params := rfl
@[simp] theorem beginCycle_inputs (r : Option Byte) : (s.beginCycle r).inputs = s.inputs := rfl
@[simp] theorem beginCycle_response (r : Option Byte) : (s.beginCycle r).response = .ok := rfl
@[simp] theorem beginCycle_cycleByte (r : Option Byte) : (s.beginCycle r).cycleByte = r := rfl
@[simp] theorem beginCycle_draws (r : Option Byte) : (s.beginCycle r).draws = s.draws := rfl

/-! ### `withInputs` -/

@[simp] theorem withInputs_v (ts : List Transaction) : (s.withInputs ts).v = s.v := rfl
@[simp] theorem withInputs_i (ts : List Transaction) : (s.withInputs ts).i = s.i := rfl
@[simp] theorem withInputs_pc (ts : List Transaction) : (s.withInputs ts).pc = s.pc := rfl
@[simp] theorem withInputs_stack (ts : List Transaction) : (s.withInputs ts).stack = s.stack := rfl
@[simp] theorem withInputs_sp (ts : List Transaction) : (s.withInputs ts).sp = s.sp := rfl
@[simp] theorem withInputs_dt (ts : List Transaction) : (s.withInputs ts).dt = s.dt := rfl
@[simp] theorem withInputs_st (ts : List Transaction) : (s.withInputs ts).st = s.st := rfl
@[simp] theorem withInputs_mem (ts : List Transaction) : (s.withInputs ts).mem = s.mem := rfl
@[simp] theorem withInputs_fb (ts : List Transaction) : (s.withInputs ts).fb = s.fb := rfl
@[simp] theorem withInputs_keys (ts : List Transaction) : (s.withInputs ts).keys = s.keys := rfl
@[simp] theorem withInputs_redraw (ts : List Transaction) : (s.withInputs ts).redraw = s.redraw := rfl
@[simp] theorem withInputs_phase (ts : List Transaction) : (s.withInputs ts).phase = s.phase := rfl
@[simp] theorem withInputs_fault (ts : List Transaction) : (s.withInputs ts).fault = s.fault := rfl
@[simp] theorem withInputs_params (ts : List Transaction) : (s.withInputs ts).params = s.params := rfl
@[simp] theorem withInputs_inputs (ts : List Transaction) : (s.withInputs ts).inputs = ts := rfl
@[simp] theorem withInputs_response (ts : List Transaction) : (s.withInputs ts).response = s.response := rfl
@[simp] theorem withInputs_cycleByte (ts : List Transaction) : (s.withInputs ts).cycleByte = s.cycleByte := rfl
@[simp] theorem withInputs_draws (ts : List Transaction) : (s.withInputs ts).draws = s.draws := rfl

/-! ### `afterDraw` -/

@[simp] theorem afterDraw_v : (s.afterDraw).v = s.v := rfl
@[simp] theorem afterDraw_i : (s.afterDraw).i = s.i := rfl
@[simp] theorem afterDraw_pc : (s.afterDraw).pc = s.pc := rfl
@[simp] theorem afterDraw_stack : (s.afterDraw).stack = s.stack := rfl
@[simp] theorem afterDraw_sp : (s.afterDraw).sp = s.sp := rfl
@[simp] theorem afterDraw_dt : (s.afterDraw).dt = s.dt := rfl
@[simp] theorem afterDraw_st : (s.afterDraw).st = s.st := rfl
@[simp] theorem afterDraw_mem : (s.afterDraw).mem = s.mem := rfl
@[simp] theorem afterDraw_fb : (s.afterDraw).fb = s.fb := rfl
@[simp] theorem afterDraw_keys : (s.afterDraw).keys = s.keys := rfl
@[simp] theorem afterDraw_redraw : (s.afterDraw).redraw = s.redraw := rfl
@[simp] theorem afterDraw_phase : (s.afterDraw).phase = s.phase := rfl
@[simp] theorem afterDraw_fault : (s.afterDraw).fault = s.fault := rfl
@[simp] theorem afterDraw_params : (s.afterDraw).params = s.params := rfl
@[simp] theorem afterDraw_inputs : (s.afterDraw).inputs = s.inputs := rfl
@[simp] theorem afterDraw_response : (s.afterDraw).response = s.response := rfl
@[simp] theorem afterDraw_cycleByte : (s.afterDraw).cycleByte = s.cycleByte := rfl
@[simp] theorem afterDraw_draws : (s.afterDraw).draws = match s.cycleByte with | some _ => s.draws | none => s.draws + 1 := rfl

/-! ### `storeBytes` -/

@[simp] theorem storeBytes_v (base : Nat) (xs : List Byte) : (s.storeBytes base xs).v = s.v := rfl
@[simp] theorem storeBytes_i (base : Nat) (xs : List Byte) : (s.storeBytes base xs).i = s.i := rfl
@[simp] theorem storeBytes_pc (base : Nat) (xs : List Byte) : (s.storeBytes base xs).pc = s.pc := rfl
@[simp] theorem storeBytes_stack (base : Nat) (xs : List Byte) : (s.storeBytes base xs).stack = s.stack := rfl
@[simp] theorem storeBytes_sp (base : Nat) (xs : List Byte) : (s.storeBytes base xs).sp = s.sp := rfl
@[simp] theorem storeBytes_dt (base : Nat) (xs : List Byte) : (s.storeBytes base xs).dt = s.dt := rfl
@[simp] theorem storeBytes_st (base : Nat) (xs : List Byte) : (s.storeBytes base xs).st = s.st := rfl
@[simp] theorem storeBytes_mem (base : Nat) (xs : List Byte) : (s.storeBytes base xs).mem = s.mem.writeBytes s.params.fontRom base xs := rfl
@[simp] theorem storeBytes_fb (base : Nat) (xs : List Byte) : (s.storeBytes base xs).fb = s.fb := rfl
@[simp] theorem storeBytes_keys (base : Nat) (xs : List Byte) : (s.storeBytes base xs).keys = s.keys := rfl
@[simp] theorem storeBytes_redraw (base : Nat) (xs : List Byte) : (s.storeBytes base xs).redraw = s.redraw := rfl
@[simp] theorem storeBytes_phase (base : Nat) (xs : List Byte) : (s.storeBytes base xs).phase = s.phase := rfl
@[simp] theorem storeBytes_fault (base : Nat) (xs : List Byte) : (s.storeBytes base xs).fault = s.fault := rfl
@[simp] theorem storeBytes_params (base : Nat) (xs : List Byte) : (s.storeBytes base xs).params = s.params := rfl
@[simp] theorem storeBytes_inputs (base : Nat) (xs : List Byte) : (s.storeBytes base xs).inputs = s.inputs := rfl
@[simp] theorem storeBytes_response (base : Nat) (xs : List Byte) : (s.storeBytes base xs).response = s.response := rfl
@[simp] theorem storeBytes_cycleByte (base : Nat) (xs : List Byte) : (s.storeBytes base xs).cycleByte = s.cycleByte := rfl
@[simp] theorem storeBytes_draws (base : Nat) (xs : List Byte) : (s.storeBytes base xs).draws = s.draws := rfl

/-! ### `loadBlock` -/

@[simp] theorem loadBlock_v (x : RegIdx) : (s.loadBlock x).v = Vector.ofFn fun k => if k ≤ x then s.memRead (s.i.toNat + k.val) else s.v[k] := rfl
@[simp] theorem loadBlock_i (x : RegIdx) : (s.loadBlock x).i = s.i := rfl
@[simp] theorem loadBlock_pc (x : RegIdx) : (s.loadBlock x).pc = s.pc := rfl
@[simp] theorem loadBlock_stack (x : RegIdx) : (s.loadBlock x).stack = s.stack := rfl
@[simp] theorem loadBlock_sp (x : RegIdx) : (s.loadBlock x).sp = s.sp := rfl
@[simp] theorem loadBlock_dt (x : RegIdx) : (s.loadBlock x).dt = s.dt := rfl
@[simp] theorem loadBlock_st (x : RegIdx) : (s.loadBlock x).st = s.st := rfl
@[simp] theorem loadBlock_mem (x : RegIdx) : (s.loadBlock x).mem = s.mem := rfl
@[simp] theorem loadBlock_fb (x : RegIdx) : (s.loadBlock x).fb = s.fb := rfl
@[simp] theorem loadBlock_keys (x : RegIdx) : (s.loadBlock x).keys = s.keys := rfl
@[simp] theorem loadBlock_redraw (x : RegIdx) : (s.loadBlock x).redraw = s.redraw := rfl
@[simp] theorem loadBlock_phase (x : RegIdx) : (s.loadBlock x).phase = s.phase := rfl
@[simp] theorem loadBlock_fault (x : RegIdx) : (s.loadBlock x).fault = s.fault := rfl
@[simp] theorem loadBlock_params (x : RegIdx) : (s.loadBlock x).params = s.params := rfl
@[simp] theorem loadBlock_inputs (x : RegIdx) : (s.loadBlock x).inputs = s.inputs := rfl
@[simp] theorem loadBlock_response (x : RegIdx) : (s.loadBlock x).response = s.response := rfl
@[simp] theorem loadBlock_cycleByte (x : RegIdx) : (s.loadBlock x).cycleByte = s.cycleByte := rfl
@[simp] theorem loadBlock_draws (x : RegIdx) : (s.loadBlock x).draws = s.draws := rfl

/-! ### `drawSprite` -/

@[simp] theorem drawSprite_v (x0 y0 n : Nat) : (s.drawSprite x0 y0 n).v = s.v.set vf (collisionFlag s.params.drwClearsVf (flipPixels s.fb (s.spritePixels x0 y0 n)).2 s.v[vf]) := rfl
@[simp] theorem drawSprite_i (x0 y0 n : Nat) : (s.drawSprite x0 y0 n).i = s.i := rfl
@[simp] theorem drawSprite_pc (x0 y0 n : Nat) : (s.drawSprite x0 y0 n).pc = s.pc := rfl
@[simp] theorem drawSprite_stack (x0 y0 n : Nat) : (s.drawSprite x0 y0 n).stack = s.stack := rfl
@[simp] theorem drawSprite_sp (x0 y0 n : Nat) : (s.drawSprite x0 y0 n).sp = s.sp := rfl
@[simp] theorem drawSprite_dt (x0 y0 n : Nat) : (s.drawSprite x0 y0 n).dt = s.dt := rfl
@[simp] theorem drawSprite_st (x0 y0 n : Nat) : (s.drawSprite x0 y0 n).st = s.st := rfl
@[simp] theorem drawSprite_mem (x0 y0 n : Nat) : (s.drawSprite x0 y0 n).mem = s.mem := rfl
@[simp] theorem drawSprite_fb (x0 y0 n : Nat) : (s.drawSprite x0 y0 n).fb = (flipPixels s.fb (s.spritePixels x0 y0 n)).1 := rfl
@[simp] theorem drawSprite_keys (x0 y0 n : Nat) : (s.drawSprite x0 y0 n).keys = s.keys := rfl
@[simp] theorem drawSprite_redraw (x0 y0 n : Nat) : (s.drawSprite x0 y0 n).redraw = true := rfl
@[simp] theorem drawSprite_phase (x0 y0 n : Nat) : (s.drawSprite x0 y0 n).phase = s.phase := rfl
@[simp] theorem drawSprite_fault (x0 y0 n : Nat) : (s.drawSprite x0 y0 n).fault = s.fault := rfl
@[simp] theorem drawSprite_params (x0 y0 n : Nat) : (s.drawSprite x0 y0 n).params = s.params := rfl
@[simp] theorem drawSprite_inputs (x0 y0 n : Nat) : (s.drawSprite x0 y0 n).inputs = s.inputs := rfl
@[simp] theorem drawSprite_response (x0 y0 n : Nat) : (s.drawSprite x0 y0 n).response = s.response := rfl
@[simp] theorem drawSprite_cycleByte (x0 y0 n : Nat) : (s.drawSprite x0 y0 n).cycleByte = s.cycleByte := rfl
@[simp] theorem drawSprite_draws (x0 y0 n : Nat) : (s.drawSprite x0 y0 n).draws = s.draws := rfl

/-! ### `doTick` -/

@[simp] theorem doTick_v : (s.doTick).v = s.v := rfl
@[simp] theorem doTick_i : (s.doTick).i = s.i := rfl
@[simp] theorem doTick_pc : (s.doTick).pc = s.pc := rfl
@[simp] theorem doTick_stack : (s.doTick).stack = s.stack := rfl
@[simp] theorem doTick_sp : (s.doTick).sp = s.sp := rfl
@[simp] theorem doTick_dt : (s.doTick).dt = countDown s.dt := rfl
@[simp] theorem doTick_st : (s.doTick).st = countDown s.st := rfl
@[simp] theorem doTick_mem : (s.doTick).mem = s.mem := rfl
@[simp] theorem doTick_fb : (s.doTick).fb = s.fb := rfl
@[simp] theorem doTick_keys : (s.doTick).keys = s.keys := rfl
@[simp] theorem doTick_redraw : (s.doTick).redraw = s.redraw := rfl
@[simp] theorem doTick_phase : (s.doTick).phase = s.phase := rfl
@[simp] theorem doTick_fault : (s.doTick).fault = s.fault := rfl
@[simp] theorem doTick_params : (s.doTick).params = s.params := rfl
@[simp] theorem doTick_inputs : (s.doTick).inputs = s.inputs := rfl
@[simp] theorem doTick_response : (s.doTick).response = .noOutput := rfl
@[simp] theorem doTick_cycleByte : (s.doTick).cycleByte = s.cycleByte := rfl
@[simp] theorem doTick_draws : (s.doTick).draws = s.draws := rfl

/-! ### `doSetKeys` -/

@[simp] theorem doSetKeys_v (k : Vector Bool 16) : (s.doSetKeys k).v = s.v := rfl
@[simp] theorem doSetKeys_i (k : Vector Bool 16) : (s.doSetKeys k).i = s.i := rfl
@[simp] theorem doSetKeys_pc (k : Vector Bool 16) : (s.doSetKeys k).pc = s.pc := rfl
@[simp] theorem doSetKeys_stack (k : Vector Bool 16) : (s.doSetKeys k).stack = s.stack := rfl
@[simp] theorem doSetKeys_sp (k : Vector Bool 16) : (s.doSetKeys k).sp = s.sp := rfl
@[simp] theorem doSetKeys_dt (k : Vector Bool 16) : (s.doSetKeys k).dt = s.dt := rfl
@[simp] theorem doSetKeys_st (k : Vector Bool 16) : (s.doSetKeys k).st = s.st := rfl
@[simp] theorem doSetKeys_mem (k : Vector Bool 16) : (s.doSetKeys k).mem = s.mem := rfl
@[simp] theorem doSetKeys_fb (k : Vector Bool 16) : (s.doSetKeys k).fb = s.fb := rfl
@[simp] theorem doSetKeys_keys (k : Vector Bool 16) : (s.doSetKeys k).keys = k := rfl
@[simp] theorem doSetKeys_redraw (k : Vector Bool 16) : (s.doSetKeys k).redraw = s.redraw := rfl
@[simp] theorem doSetKeys_phase (k : Vector Bool 16) : (s.doSetKeys k).phase = s.phase := rfl
@[simp] theorem doSetKeys_fault (k : Vector Bool 16) : (s.doSetKeys k).fault = s.fault := rfl
@[simp] theorem doSetKeys_params (k : Vector Bool 16) : (s.doSetKeys k).params = s.params := rfl
@[simp] theorem doSetKeys_inputs (k : Vector Bool 16) : (s.doSetKeys k).inputs = s.inputs := rfl
@[simp] theorem doSetKeys_response (k : Vector Bool 16) : (s.doSetKeys k).response = .noOutput := rfl
@[simp] theorem doSetKeys_cycleByte (k : Vector Bool 16) : (s.doSetKeys k).cycleByte = s.cycleByte := rfl
@[simp] theorem doSetKeys_draws (k : Vector Bool 16) : (s.doSetKeys k).draws = s.draws := rfl

/-! ### `doObserve` -/

@[simp] theorem doObserve_v : (s.doObserve).v = s.v := rfl
@[simp] theorem doObserve_i : (s.doObserve).i = s.i := rfl
@[simp] theorem doObserve_pc : (s.doObserve).pc = s.pc := rfl
@[simp] theorem doObserve_stack : (s.doObserve).stack = s.stack := rfl
@[simp] theorem doObserve_sp : (s.doObserve).sp = s.sp := rfl
@[simp] theorem doObserve_dt : (s.doObserve).dt = s.dt := rfl
@[simp] theorem doObserve_st : (s.doObserve).st = s.st := rfl
@[simp] theorem doObserve_mem : (s.doObserve).mem = s.mem := rfl
@[simp] theorem doObserve_fb : (s.doObserve).fb = s.fb := rfl
@[simp] theorem doObserve_keys : (s.doObserve).keys = s.keys := rfl
@[simp] theorem doObserve_redraw : (s.doObserve).redraw = s.redraw := rfl
@[simp] theorem doObserve_phase : (s.doObserve).phase = s.phase := rfl
@[simp] theorem doObserve_fault : (s.doObserve).fault = s.fault := rfl
@[simp] theorem doObserve_params : (s.doObserve).params = s.params := rfl
@[simp] theorem doObserve_inputs : (s.doObserve).inputs = s.inputs := rfl
@[simp] theorem doObserve_response : (s.doObserve).response = .observed ⟨s.redraw, s.fb, s.phase, s.fault⟩ := rfl
@[simp] theorem doObserve_cycleByte : (s.doObserve).cycleByte = s.cycleByte := rfl
@[simp] theorem doObserve_draws : (s.doObserve).draws = s.draws := rfl

end Sys2Proof.Machine
end

