-- ==== Sys2Proof/Laws/Memory.lean ====
section
/-! SUPPORT. Laws of memory: a write is read back, leaves every other byte alone and keeps the canonical form; then the same for stores of several bytes. -/

namespace Sys2Proof.Machine

variable {rom : FontRom}

/-- A form that holds from `lo` holds from any lower bound. -/
theorem Memory.wfFrom_mono {m : Memory} {lo lo' : Nat} (h : lo' ≤ lo) (hm : m.wfFrom rom lo = true) :
    m.wfFrom rom lo' = true := by
  cases m with
  | nil => rfl
  | cons e rest =>
    simp only [Memory.wfFrom, Bool.and_eq_true, decide_eq_true_eq] at hm ⊢
    exact ⟨⟨⟨Nat.le_trans h hm.1.1.1, hm.1.1.2⟩, hm.1.2⟩, hm.2⟩

/-- An address below every listed one reads as its reset value. -/
theorem Memory.read_below {m : Memory} {lo a : Nat} (h : a < lo) (hm : m.wfFrom rom lo = true) :
    m.read rom a = resetByte rom a := by
  induction m generalizing lo with
  | nil => rfl
  | cons e rest ih =>
    simp only [Memory.wfFrom, Bool.and_eq_true, decide_eq_true_eq] at hm
    have hne : a ≠ e.1 := by omega
    simp only [Memory.read, hne, if_false]
    exact ih (by omega) hm.2

/-- A write keeps the canonical form. -/
theorem Memory.write_wfFrom {m : Memory} {lo a : Nat} {x : Byte} (hlo : lo ≤ a) (ha : a < 4096)
    (hm : m.wfFrom rom lo = true) : (m.write rom a x).wfFrom rom lo = true := by
  induction m generalizing lo with
  | nil =>
    simp only [Memory.write]
    split
    · rfl
    · simp_all [Memory.wfFrom]
  | cons e rest ih =>
    simp only [Memory.wfFrom, Bool.and_eq_true, decide_eq_true_eq] at hm
    obtain ⟨⟨⟨h1, h2⟩, h3⟩, h4⟩ := hm
    simp only [Memory.write]
    split
    · split
      · simp_all [Memory.wfFrom]
      · next hlt hx =>
        simp only [Memory.wfFrom, Bool.and_eq_true, decide_eq_true_eq]
        exact ⟨⟨⟨hlo, ha⟩, hx⟩, ⟨⟨⟨hlt, h2⟩, h3⟩, h4⟩⟩
    · split
      · split
        · exact Memory.wfFrom_mono (by omega) h4
        · next heq hx =>
          simp only [Memory.wfFrom, Bool.and_eq_true, decide_eq_true_eq]
          exact ⟨⟨⟨hlo, ha⟩, hx⟩, heq ▸ h4⟩
      · simp only [Memory.wfFrom, Bool.and_eq_true, decide_eq_true_eq]
        exact ⟨⟨⟨h1, h2⟩, h3⟩, ih (by omega) h4⟩

theorem Memory.write_wf {m : Memory} {a : Nat} {x : Byte} (ha : a < 4096) (hm : m.wf rom = true) :
    (m.write rom a x).wf rom = true := Memory.write_wfFrom (Nat.zero_le a) ha hm

/-- A byte written is read back. -/
theorem Memory.read_write_same {m : Memory} {lo a : Nat} {x : Byte} (hm : m.wfFrom rom lo = true) :
    (m.write rom a x).read rom a = x := by
  induction m generalizing lo with
  | nil =>
    simp only [Memory.write]
    split <;> simp_all [Memory.read]
  | cons e rest ih =>
    simp only [Memory.wfFrom, Bool.and_eq_true, decide_eq_true_eq] at hm
    obtain ⟨⟨⟨-, -⟩, -⟩, h4⟩ := hm
    simp only [Memory.write]
    split
    · next hlt =>
      split
      · next hx =>
        have hne : a ≠ e.1 := by omega
        simp only [Memory.read, hne, if_false, hx]
        exact Memory.read_below (by omega) h4
      · simp [Memory.read]
    · next hge =>
      split
      · next heq =>
        split
        · next hx => rw [hx]; exact Memory.read_below (by omega) h4
        · simp [Memory.read]
      · next hne =>
        simp only [Memory.read, hne, if_false]
        exact ih h4

/-- A write leaves every other byte alone. -/
theorem Memory.read_write_ne {m : Memory} {lo a b : Nat} {x : Byte} (hm : m.wfFrom rom lo = true) (h : b ≠ a) :
    (m.write rom a x).read rom b = m.read rom b := by
  induction m generalizing lo with
  | nil =>
    simp only [Memory.write]
    split <;> simp [Memory.read, h]
  | cons e rest ih =>
    simp only [Memory.wfFrom, Bool.and_eq_true, decide_eq_true_eq] at hm
    obtain ⟨⟨⟨-, -⟩, -⟩, h4⟩ := hm
    simp only [Memory.write]
    split
    · split
      · rfl
      · simp [Memory.read, h]
    · split
      · next heq =>
        have hne : b ≠ e.1 := heq ▸ h
        split
        · simp [Memory.read, hne]
        · simp [Memory.read, h, hne]
      · simp only [Memory.read]
        split
        · rfl
        · exact ih h4

/-- A store of several bytes keeps the canonical form. -/
theorem Memory.writeBytes_wf {m : Memory} {base : Nat} {xs : List Byte} (hm : m.wf rom = true) :
    (m.writeBytes rom base xs).wf rom = true := by
  induction xs generalizing m base with
  | nil => exact hm
  | cons x xs ih => exact ih (Memory.write_wf (reduce_lt base) hm)

/-- A store of several bytes leaves every byte outside its targets alone. -/
theorem Memory.read_writeBytes_other {m : Memory} {base a : Nat} {xs : List Byte} (hm : m.wf rom = true)
    (h : ∀ k, k < xs.length → reduce (base + k) ≠ a) : (m.writeBytes rom base xs).read rom a = m.read rom a := by
  induction xs generalizing m base with
  | nil => rfl
  | cons x xs ih =>
    have h0 : a ≠ reduce base := fun e => h 0 (by simp) (by simpa using e.symm)
    rw [Memory.writeBytes, ih (Memory.write_wf (reduce_lt base) hm), Memory.read_write_ne hm h0]
    intro k hk
    have := h (k + 1) (by simpa using hk)
    rwa [show base + 1 + k = base + (k + 1) by omega]

/-- A store of at most 4096 bytes is read back at each target. -/
theorem Memory.read_writeBytes_target {m : Memory} {base k : Nat} {xs : List Byte} (hm : m.wf rom = true)
    (hlen : xs.length ≤ 4096) (hk : k < xs.length) :
    (m.writeBytes rom base xs).read rom (reduce (base + k)) = xs[k] := by
  induction xs generalizing m base k with
  | nil => simp at hk
  | cons x xs ih =>
    cases k with
    | zero =>
      rw [Memory.writeBytes, Memory.read_writeBytes_other (Memory.write_wf (reduce_lt base) hm)]
      · exact Memory.read_write_same hm
      · intro j hj e
        rw [List.length_cons] at hlen
        simp only [reduce, Nat.add_zero, Config.memSize] at e
        omega
    | succ k =>
      have := ih (m := m.write rom (reduce base) x) (base := base + 1) (k := k)
        (Memory.write_wf (reduce_lt base) hm) (by simp at hlen; omega) (by simpa using hk)
      rw [show base + 1 + k = base + (k + 1) by omega] at this
      simpa [Memory.writeBytes] using this

theorem reset_memory_wf : State.reset.mem.wf State.reset.params.fontRom = true := rfl

/-! ### The font check and the checked store -/

/-- No target in the font: none of them is. -/
theorem firstFontTarget_none {base n : Nat} :
    firstFontTarget base n = none ↔ ∀ k, k < n → inFont (reduce (base + k)) = false := by
  simp [firstFontTarget, List.find?_eq_none]

/-- The target that is named lies in the font, and no earlier one does. -/
theorem firstFontTarget_some {base n b : Nat} (h : firstFontTarget base n = some b) :
    inFont b = true ∧ ∃ k, k < n ∧ reduce (base + k) = b ∧
      ∀ j, j < k → inFont (reduce (base + j)) = false := by
  obtain ⟨hb, i, hi, hget, hbefore⟩ := List.find?_eq_some_iff_getElem.mp h
  simp only [List.length_map, List.length_range] at hi
  refine ⟨hb, i, hi, by simpa using hget, fun j hj => ?_⟩
  simpa using hbefore j hj

/-- Everything a checked store can do. -/
theorem storeChecked_cases (base : Nat) (xs : List Byte) (s : State) :
    (∃ b, firstFontTarget base xs.length = some b ∧ storeChecked base xs s = .next (s.enterFault (.fontWrite b))) ∨
    (firstFontTarget base xs.length = none ∧ storeChecked base xs s = .next (s.storeBytes base xs)) := by
  unfold storeChecked
  cases h : firstFontTarget base xs.length with
  | none => exact .inr ⟨rfl, rfl⟩
  | some b => exact .inl ⟨b, rfl, rfl⟩

end Sys2Proof.Machine
end

