-- ==== Sys2Proof/Laws/Registers.lean ====
section
/-! SUPPORT. Laws of the general registers, of the operand forms and of the faults. -/

namespace Sys2Proof.Machine

@[simp] theorem getV_setV_same (s : State) (x : RegIdx) (b : Byte) : (s.setV x b).getV x = b := by
  simp [State.getV]

theorem getV_setV_ne (s : State) {x k : RegIdx} (b : Byte) (h : k ≠ x) : (s.setV x b).getV k = s.getV k := by
  have : x.val ≠ k.val := fun e => h (Fin.ext e.symm)
  simp [State.getV, this]

/-- VF ends as the flag, whatever `x` is. -/
@[simp] theorem getV_setResultFlag_vf (s : State) (x : RegIdx) (r f : Byte) :
    (s.setResultFlag x r f).getV vf = f := by
  simp [State.getV]

/-- Where `x` is not VF, `V[x]` ends as the result. -/
theorem getV_setResultFlag_result (s : State) {x : RegIdx} (r f : Byte) (h : x ≠ vf) :
    (s.setResultFlag x r f).getV x = r := by
  have : (vf : RegIdx).val ≠ x.val := fun e => h (Fin.ext e.symm)
  simp [State.getV, this]

/-- Every other register keeps its value. -/
theorem getV_setResultFlag_ne (s : State) {x k : RegIdx} (r f : Byte) (hx : k ≠ x) (hf : k ≠ vf) :
    (s.setResultFlag x r f).getV k = s.getV k := by
  have h1 : x.val ≠ k.val := fun e => hx (Fin.ext e.symm)
  have h2 : (vf : RegIdx).val ≠ k.val := fun e => hf (Fin.ext e.symm)
  simp [State.getV, h1, h2]

@[simp] theorem getV_loadBlock (s : State) (x k : RegIdx) :
    (s.loadBlock x).getV k = if k ≤ x then s.memRead (s.i.toNat + k.val) else s.getV k := by
  simp [State.getV]

theorem regBlock_length (s : State) (x : RegIdx) : (s.regBlock x).length = x.val + 1 := by
  have := x.isLt
  simp only [State.regBlock, List.length_take, Vector.length_toList]
  omega

theorem regBlock_getElem (s : State) (x : RegIdx) (k : Nat) (h : k < (s.regBlock x).length) :
    (s.regBlock x)[k] = s.getV ⟨k, by have := x.isLt; rw [regBlock_length] at h; omega⟩ := by
  simp [State.regBlock, State.getV]

/-- `raise` always halts the core, with the record of the one cause. -/
@[simp] theorem raise_eq (c : Cause) (s : State) : raise c s = .next (s.enterFault c) := rfl

/-- Everything a key test can do. -/
theorem skipOnKey_cases (x : RegIdx) (pressed : Bool) (s : State) :
    (15 < (s.getV x).toNat ∧
      skipOnKey x pressed s = .next (s.enterFault (.keyIndexOutOfRange (s.getV x)))) ∨
    (∃ h : (s.getV x).toNat < 16,
      skipOnKey x pressed s = .next (s.skipIf (s.keys[(s.getV x).toNat] == pressed))) := by
  by_cases h : (s.getV x).toNat < 16
  · exact .inr ⟨h, by simp [skipOnKey, keyIndex, h]⟩
  · exact .inl ⟨by omega, by simp [skipOnKey, keyIndex, h]⟩

/-- No key is found exactly when none is pressed. -/
theorem leastKey_none {keys : Vector Bool 16} : leastKey keys = none ↔ ∀ k : Fin 16, keys[k] = false := by
  simp [leastKey, List.find?_eq_none]

/-- The key found is pressed and no lower one is. -/
theorem leastKey_some {keys : Vector Bool 16} {k : Fin 16} (h : leastKey keys = some k) :
    keys[k] = true ∧ ∀ j : Fin 16, j < k → keys[j] = false := by
  obtain ⟨hk, i, hi, hget, hbefore⟩ := List.find?_eq_some_iff_getElem.mp h
  refine ⟨hk, fun j hj => ?_⟩
  have hik : i = k.val := by simpa [List.getElem_finRange] using congrArg Fin.val hget
  have hji : j.val < i := by rw [hik]; exact hj
  have := hbefore j.val hji
  simpa [List.getElem_finRange] using this

end Sys2Proof.Machine
end

