-- ==== Sys2Proof/Laws/Step.lean ====
section
/-! SUPPORT. What one step can be: the transaction it performs, and the cases of a cycle. -/

namespace Sys2Proof.Machine

/-- The pending transactions are no part of what a cycle fetches. -/
@[simp] theorem fetchWord_withInputs (s : State) (ts : List Transaction) :
    (s.withInputs ts).fetchWord = s.fetchWord := rfl

/-- An admitted transaction is performed. -/
theorem transact_admitted {t : Transaction} {s : State} (h : admitted t s.phase = true) :
    transact t s = perform t s := by simp [transact, h]

/-- A transaction that gives a next state was admitted and performed. -/
theorem transact_next {t : Transaction} {s u : State} (h : transact t s = .next u) :
    admitted t s.phase = true ∧ perform t s = .next u := by
  unfold transact at h
  split at h
  · next ha => exact ⟨ha, h⟩
  · unfold notAdmitted at h
    split at h <;> simp at h

/-- Every step is one transaction: the pending one, or a cycle with a free byte. -/
theorem step_cases (s : State) :
    (s.inputs = [] ∧ step s = transact (.cycle none) s) ∨
    (∃ t rest, s.inputs = t :: rest ∧ step s = transact t (s.withInputs rest)) := by
  unfold step
  cases h : s.inputs with
  | nil => exact .inl ⟨rfl, rfl⟩
  | cons t rest => exact .inr ⟨t, rest, rfl, rfl⟩

/-- A cycle executes the decoded instruction or raises `DecodeFailure`. -/
theorem runCycle_cases (r : Option Byte) (s : State) :
    (∃ i, decodeWord s.fetchWord = .ok i ∧ runCycle r s = exec i (s.beginCycle r)) ∨
    (∃ e, decodeWord s.fetchWord = .error e ∧
      runCycle r s = .next ((s.beginCycle r).enterFault (.decodeFailure s.fetchWord))) := by
  unfold runCycle
  cases h : decodeWord s.fetchWord with
  | ok i => exact .inl ⟨i, rfl, rfl⟩
  | error e => exact .inr ⟨e, rfl, rfl⟩

/-- The address of the executing instruction is where the cycle fetched. -/
@[simp] theorem insnAddr_beginCycle (s : State) (r : Option Byte) : (s.beginCycle r).insnAddr = s.pc := by
  simp [State.insnAddr]

/-- Everything `Load` can do. -/
theorem doLoad_cases (s : State) (bytes : List Byte) :
    (bytes.length ≤ Config.maxImage ∧
      s.doLoad bytes = { s with mem := s.mem.writeBytes s.params.fontRom Config.entry bytes, phase := .ready, response := .ok }) ∨
    (Config.maxImage < bytes.length ∧
      s.doLoad bytes = { s with response := .rejected (.loadTooLarge bytes.length) }) := by
  unfold State.doLoad
  split
  · next h => exact .inl ⟨h, rfl⟩
  · next h => exact .inr ⟨by omega, rfl⟩

end Sys2Proof.Machine
end

