-- ==== Sys2Proof/Laws/Exec.lean ====
section
/-! SUPPORT. What an instruction can do, said once: it faults, or it answers a state with the lifecycle, the record, the response, the keypad, the parameters and the host's transactions as they were, and memory as it was or with bytes stored outside the font. -/

namespace Sys2Proof.Machine

/-- The part of a state that no instruction changes unless it faults. -/
structure SameControl (s t : State) : Prop where
  phase : t.phase = s.phase
  fault : t.fault = s.fault
  response : t.response = s.response
  keys : t.keys = s.keys
  inputs : t.inputs = s.inputs
  cycleByte : t.cycleByte = s.cycleByte
  params : t.params = s.params

/-- Memory is as it was, or bytes were stored at targets none of which lies in the font. -/
def StoresOutsideFont (s t : State) : Prop :=
  t.mem = s.mem ∨ ∃ base xs, firstFontTarget base xs.length = none ∧ t.mem = s.mem.writeBytes s.params.fontRom base xs

/-- Everything an instruction can do, up to the registers and the screen. -/
theorem exec_cases (i : Instr) (s : State) :
    (∃ c, causeHalts c = true ∧ exec i s = .next (s.enterFault c)) ∨
    (∃ t, exec i s = .next t ∧ SameControl s t ∧ StoresOutsideFont s t) := by
  have plain {t : State} (he : exec i s = .next t) (h : SameControl s t) (hm : t.mem = s.mem) :
      (∃ c, causeHalts c = true ∧ exec i s = .next (s.enterFault c)) ∨
      (∃ t, exec i s = .next t ∧ SameControl s t ∧ StoresOutsideFont s t) := .inr ⟨t, he, h, .inl hm⟩
  have store (base : Nat) (xs : List Byte) (he : exec i s = storeChecked base xs s) :
      (∃ c, causeHalts c = true ∧ exec i s = .next (s.enterFault c)) ∨
      (∃ t, exec i s = .next t ∧ SameControl s t ∧ StoresOutsideFont s t) := by
    rcases storeChecked_cases base xs s with ⟨b, -, h⟩ | ⟨hf, h⟩
    · exact .inl ⟨_, rfl, he.trans h⟩
    · exact .inr ⟨_, he.trans h, ⟨rfl, rfl, rfl, rfl, rfl, rfl, rfl⟩, .inr ⟨base, xs, hf, rfl⟩⟩
  have key (x : RegIdx) (p : Bool) (he : exec i s = skipOnKey x p s) :
      (∃ c, causeHalts c = true ∧ exec i s = .next (s.enterFault c)) ∨
      (∃ t, exec i s = .next t ∧ SameControl s t ∧ StoresOutsideFont s t) := by
    rcases skipOnKey_cases x p s with ⟨-, h⟩ | ⟨_, h⟩
    · exact .inl ⟨_, rfl, he.trans h⟩
    · exact plain (he.trans h) ⟨rfl, rfl, rfl, rfl, rfl, rfl, rfl⟩ rfl
  cases i with
  | ret =>
    by_cases h : 0 < s.sp.val
    · exact plain (dif_pos h) ⟨rfl, rfl, rfl, rfl, rfl, rfl, rfl⟩ rfl
    · exact .inl ⟨.stackUnderflow, rfl, dif_neg h⟩
  | call nnn =>
    by_cases h : s.sp.val < Config.stackDepth
    · exact plain (dif_pos h) ⟨rfl, rfl, rfl, rfl, rfl, rfl, rfl⟩ rfl
    · exact .inl ⟨.stackOverflow nnn, rfl, dif_neg h⟩
  | skp x => exact key x true rfl
  | sknp x => exact key x false rfl
  | bcd x => exact store _ _ rfl
  | storeRegs x => exact store _ _ rfl
  | ldVxK x =>
    cases h : leastKey s.keys with
    | some k => exact plain (t := s.setV x (keyByte k)) (by simp [exec, execLdVxK, h]) ⟨rfl, rfl, rfl, rfl, rfl, rfl, rfl⟩ rfl
    | none => exact plain (t := { s with pc := s.pc - 2 }) (by simp [exec, execLdVxK, h]) ⟨rfl, rfl, rfl, rfl, rfl, rfl, rfl⟩ rfl
  | loadRegs x =>
    exact plain (t := s.loadBlock x) rfl ⟨loadBlock_phase s x, loadBlock_fault s x, loadBlock_response s x,
      loadBlock_keys s x, loadBlock_inputs s x, loadBlock_cycleByte s x,
      loadBlock_params s x⟩ (loadBlock_mem s x)
  | cls | jp | seByte | sneByte | seReg | sneReg | ldByte | addByte | ldReg | orReg | andReg | xorReg | addReg
  | subReg | shr | subnReg | shl | ldI | jpV0 | rnd | drw | ldVxDt | ldDtVx | ldStVx | addI | ldF =>
    exact plain rfl ⟨rfl, rfl, rfl, rfl, rfl, rfl, rfl⟩ rfl

/-- An instruction keeps memory in canonical form. -/
theorem exec_keeps_wf {i : Instr} {s t : State} (hw : s.mem.wf s.params.fontRom = true) (h : exec i s = .next t) :
    t.mem.wf t.params.fontRom = true := by
  rcases exec_cases i s with ⟨c, -, he⟩ | ⟨u, he, hc, hm⟩ <;> rw [he] at h <;> injection h with h <;> subst h
  · exact hw
  · rw [hc.params]
    rcases hm with hm | ⟨base, xs, -, hm⟩ <;> rw [hm]
    · exact hw
    · exact Memory.writeBytes_wf hw

end Sys2Proof.Machine
end

