-- ==== Sys2Proof/Laws/PerInstr.lean ====
section
/-! SUPPORT. One lemma per instruction: its encoding lies in its row of spec/opcode_table.json, and the row is one of the table's. -/

namespace Sys2Proof.Laws.EncodesInRow

/-- The encoding of the instruction has the fixed bits of its row, and the row stands in the table. -/
def Statement (i : Instr) : Prop := matchesRow (encode i) (tableRow i) = true ∧ tableRow i ∈ opcodeRows

/-- The fixed bits of a format-`A` row are the family. -/
theorem formatA (f : BitVec 4) (nnn : Addr12) : encodeA f nnn &&& 0xF000#16 = f ++ 0x000#12 := by
  simp only [encodeA]
  refine BitVec.eq_of_getLsbD_eq fun k hk => ?_
  rw [BitVec.getLsbD_and]
  show ((f ++ nnn).getLsbD k && _) = (f ++ 0x000#12).getLsbD k
  simp only [BitVec.getLsbD_append]
  interval_cases k <;> simp

/-- The fixed bits of a format-`XK` row are the family. -/
theorem formatXK (f : BitVec 4) (x : RegIdx) (kk : Byte) : encodeXK f x kk &&& 0xF000#16 = f ++ 0x000#12 := by
  simp only [encodeXK]
  refine BitVec.eq_of_getLsbD_eq fun k hk => ?_
  rw [BitVec.getLsbD_and]
  show ((f ++ regBits x ++ kk).getLsbD k && _) = (f ++ 0x000#12).getLsbD k
  simp only [BitVec.getLsbD_append]
  interval_cases k <;> simp

/-- The fixed bits of a format-`XY` row are the family and the low nibble. -/
theorem formatXY (f n : BitVec 4) (x y : RegIdx) : encodeXY f x y n &&& 0xF00F#16 = f ++ 0x00#8 ++ n := by
  simp only [encodeXY]
  refine BitVec.eq_of_getLsbD_eq fun k hk => ?_
  rw [BitVec.getLsbD_and]
  show ((f ++ regBits x ++ regBits y ++ n).getLsbD k && _) = (f ++ 0x00#8 ++ n).getLsbD k
  simp only [BitVec.getLsbD_append]
  interval_cases k <;> simp

/-- The fixed bits of the format-`XYN` row are the family. -/
theorem formatXYN (f n : BitVec 4) (x y : RegIdx) : encodeXY f x y n &&& 0xF000#16 = f ++ 0x000#12 := by
  simp only [encodeXY]
  refine BitVec.eq_of_getLsbD_eq fun k hk => ?_
  rw [BitVec.getLsbD_and]
  show ((f ++ regBits x ++ regBits y ++ n).getLsbD k && _) = (f ++ 0x000#12).getLsbD k
  simp only [BitVec.getLsbD_append]
  interval_cases k <;> simp

/-- The fixed bits of a format-`X` row are the family and the low byte. -/
theorem formatX (f : BitVec 4) (x : RegIdx) (sub : Byte) : encodeX f x sub &&& 0xF0FF#16 = f ++ 0x0#4 ++ sub := by
  simp only [encodeX]
  refine BitVec.eq_of_getLsbD_eq fun k hk => ?_
  rw [BitVec.getLsbD_and]
  show ((f ++ regBits x ++ sub).getLsbD k && _) = (f ++ 0x0#4 ++ sub).getLsbD k
  simp only [BitVec.getLsbD_append]
  interval_cases k <;> simp

theorem cls : Statement .cls := ⟨by decide, by decide⟩
theorem ret : Statement .ret := ⟨by decide, by decide⟩
theorem jp (nnn : Addr12) : Statement (.jp nnn) :=
  ⟨by rw [matchesRow, encode, tableRow, formatA]; decide, by rw [tableRow]; decide⟩
theorem call (nnn : Addr12) : Statement (.call nnn) :=
  ⟨by rw [matchesRow, encode, tableRow, formatA]; decide, by rw [tableRow]; decide⟩
theorem seByte (x : RegIdx) (kk : Byte) : Statement (.seByte x kk) :=
  ⟨by rw [matchesRow, encode, tableRow, formatXK]; decide, by rw [tableRow]; decide⟩
theorem sneByte (x : RegIdx) (kk : Byte) : Statement (.sneByte x kk) :=
  ⟨by rw [matchesRow, encode, tableRow, formatXK]; decide, by rw [tableRow]; decide⟩
theorem seReg (x y : RegIdx) : Statement (.seReg x y) :=
  ⟨by rw [matchesRow, encode, tableRow, formatXY]; decide, by rw [tableRow]; decide⟩
theorem sneReg (x y : RegIdx) : Statement (.sneReg x y) :=
  ⟨by rw [matchesRow, encode, tableRow, formatXY]; decide, by rw [tableRow]; decide⟩
theorem ldByte (x : RegIdx) (kk : Byte) : Statement (.ldByte x kk) :=
  ⟨by rw [matchesRow, encode, tableRow, formatXK]; decide, by rw [tableRow]; decide⟩
theorem addByte (x : RegIdx) (kk : Byte) : Statement (.addByte x kk) :=
  ⟨by rw [matchesRow, encode, tableRow, formatXK]; decide, by rw [tableRow]; decide⟩
theorem ldReg (x y : RegIdx) : Statement (.ldReg x y) :=
  ⟨by rw [matchesRow, encode, tableRow, formatXY]; decide, by rw [tableRow]; decide⟩
theorem orReg (x y : RegIdx) : Statement (.orReg x y) :=
  ⟨by rw [matchesRow, encode, tableRow, formatXY]; decide, by rw [tableRow]; decide⟩
theorem andReg (x y : RegIdx) : Statement (.andReg x y) :=
  ⟨by rw [matchesRow, encode, tableRow, formatXY]; decide, by rw [tableRow]; decide⟩
theorem xorReg (x y : RegIdx) : Statement (.xorReg x y) :=
  ⟨by rw [matchesRow, encode, tableRow, formatXY]; decide, by rw [tableRow]; decide⟩
theorem addReg (x y : RegIdx) : Statement (.addReg x y) :=
  ⟨by rw [matchesRow, encode, tableRow, formatXY]; decide, by rw [tableRow]; decide⟩
theorem subReg (x y : RegIdx) : Statement (.subReg x y) :=
  ⟨by rw [matchesRow, encode, tableRow, formatXY]; decide, by rw [tableRow]; decide⟩
theorem shr (x y : RegIdx) : Statement (.shr x y) :=
  ⟨by rw [matchesRow, encode, tableRow, formatXY]; decide, by rw [tableRow]; decide⟩
theorem subnReg (x y : RegIdx) : Statement (.subnReg x y) :=
  ⟨by rw [matchesRow, encode, tableRow, formatXY]; decide, by rw [tableRow]; decide⟩
theorem shl (x y : RegIdx) : Statement (.shl x y) :=
  ⟨by rw [matchesRow, encode, tableRow, formatXY]; decide, by rw [tableRow]; decide⟩
theorem ldI (nnn : Addr12) : Statement (.ldI nnn) :=
  ⟨by rw [matchesRow, encode, tableRow, formatA]; decide, by rw [tableRow]; decide⟩
theorem jpV0 (nnn : Addr12) : Statement (.jpV0 nnn) :=
  ⟨by rw [matchesRow, encode, tableRow, formatA]; decide, by rw [tableRow]; decide⟩
theorem rnd (x : RegIdx) (kk : Byte) : Statement (.rnd x kk) :=
  ⟨by rw [matchesRow, encode, tableRow, formatXK]; decide, by rw [tableRow]; decide⟩
theorem drw (x y : RegIdx) (n : Nat) : Statement (.drw x y n) :=
  ⟨by rw [matchesRow, encode, tableRow, formatXYN]; decide, by rw [tableRow]; decide⟩
theorem skp (x : RegIdx) : Statement (.skp x) :=
  ⟨by rw [matchesRow, encode, tableRow, formatX]; decide, by rw [tableRow]; decide⟩
theorem sknp (x : RegIdx) : Statement (.sknp x) :=
  ⟨by rw [matchesRow, encode, tableRow, formatX]; decide, by rw [tableRow]; decide⟩
theorem ldVxDt (x : RegIdx) : Statement (.ldVxDt x) :=
  ⟨by rw [matchesRow, encode, tableRow, formatX]; decide, by rw [tableRow]; decide⟩
theorem ldVxK (x : RegIdx) : Statement (.ldVxK x) :=
  ⟨by rw [matchesRow, encode, tableRow, formatX]; decide, by rw [tableRow]; decide⟩
theorem ldDtVx (x : RegIdx) : Statement (.ldDtVx x) :=
  ⟨by rw [matchesRow, encode, tableRow, formatX]; decide, by rw [tableRow]; decide⟩
theorem ldStVx (x : RegIdx) : Statement (.ldStVx x) :=
  ⟨by rw [matchesRow, encode, tableRow, formatX]; decide, by rw [tableRow]; decide⟩
theorem addI (x : RegIdx) : Statement (.addI x) :=
  ⟨by rw [matchesRow, encode, tableRow, formatX]; decide, by rw [tableRow]; decide⟩
theorem ldF (x : RegIdx) : Statement (.ldF x) :=
  ⟨by rw [matchesRow, encode, tableRow, formatX]; decide, by rw [tableRow]; decide⟩
theorem bcd (x : RegIdx) : Statement (.bcd x) :=
  ⟨by rw [matchesRow, encode, tableRow, formatX]; decide, by rw [tableRow]; decide⟩
theorem storeRegs (x : RegIdx) : Statement (.storeRegs x) :=
  ⟨by rw [matchesRow, encode, tableRow, formatX]; decide, by rw [tableRow]; decide⟩
theorem loadRegs (x : RegIdx) : Statement (.loadRegs x) :=
  ⟨by rw [matchesRow, encode, tableRow, formatX]; decide, by rw [tableRow]; decide⟩

end Sys2Proof.Laws.EncodesInRow
end

