-- ==== Sys2Proof/Laws/Screen.lean ====
section
/-! SUPPORT. Laws of the framebuffer: which pixels a sprite covers, and what flipping pixels leaves. -/

namespace Sys2Proof.Machine

theorem getLsbD_flip (fb : Screen) (p q : Fin 2048) :
    (fb ^^^ BitVec.twoPow 2048 p.val).getLsbD q.val = (fb.getLsbD q.val != decide (p = q)) := by
  have h : (BitVec.twoPow 2048 p.val).getLsbD q.val = decide (p = q) := by
    rw [BitVec.getLsbD_twoPow]
    simp [Fin.ext_iff, p.isLt]
  rw [BitVec.getLsbD_xor, h]

/-- Flipping distinct pixels turns each over once, and collides where one of them was on. -/
theorem foldl_flipPixel (ps : List (Fin 2048)) (hd : ps.Nodup) (fb : Screen) (c : Bool) :
    (∀ q : Fin 2048, (ps.foldl flipPixel (fb, c)).1.getLsbD q.val = (fb.getLsbD q.val != decide (q ∈ ps))) ∧
    (ps.foldl flipPixel (fb, c)).2 = (c || ps.any fun p => fb.getLsbD p.val) := by
  induction ps generalizing fb c with
  | nil => simp
  | cons p ps ih =>
    obtain ⟨hp, hd⟩ := List.nodup_cons.mp hd
    obtain ⟨h1, h2⟩ := ih hd (fb ^^^ BitVec.twoPow 2048 p.val) (c || fb.getLsbD p.val)
    refine ⟨fun q => ?_, ?_⟩
    · rw [List.foldl_cons, flipPixel, h1, getLsbD_flip]
      by_cases hq : p = q
      · subst hq; simp [hp]
      · have hq' : ¬q = p := fun e => hq e.symm
        simp [hq, hq']
    · rw [List.foldl_cons, flipPixel, h2, List.any_cons, Bool.or_assoc]
      congr 2
      rw [Bool.eq_iff_iff]
      simp only [List.any_eq_true]
      refine exists_congr fun q => and_congr_right fun hq => ?_
      have hne : p ≠ q := fun e => hp (e ▸ hq)
      rw [getLsbD_flip]
      simp [hne]

theorem pixelIndex_val (x y : Nat) : (pixelIndex x y).val = y % 32 * 64 + x % 64 := rfl

/-- A pixel is covered exactly when a 1 bit of a row of the sprite falls on it. -/
theorem mem_spritePixels (s : State) (x0 y0 n : Nat) (p : Fin 2048) :
    p ∈ s.spritePixels x0 y0 n ↔
      ∃ r c, r < n ∧ c < 8 ∧ spriteBit (s.spriteRow r) c = true ∧ pixelIndex (x0 + c) (y0 + r) = p := by
  simp only [State.spritePixels, State.spriteRowPixels, List.mem_flatMap, List.mem_range, List.mem_map,
    List.mem_filter]
  constructor
  · rintro ⟨r, hr, c, ⟨hc, hb⟩, hp⟩
    exact ⟨r, c, hr, hc, hb, hp⟩
  · rintro ⟨r, c, hr, hc, hb, hp⟩
    exact ⟨r, hr, c, ⟨hc, hb⟩, hp⟩

/-- VF after a draw is the collision flag, for both values of DRW_CLEARS_VF (R101). -/
@[simp] theorem getV_drawSprite_vf (s : State) (x0 y0 n : Nat) :
    (s.drawSprite x0 y0 n).getV vf =
      collisionFlag s.params.drwClearsVf (flipPixels s.fb (s.spritePixels x0 y0 n)).2 (s.getV vf) := by
  simp [State.getV]

@[simp] theorem collisionFlag_collision (clears : Bool) (old : Byte) : collisionFlag clears true old = 1 := rfl
@[simp] theorem collisionFlag_clear (old : Byte) : collisionFlag true false old = 0 := rfl
@[simp] theorem collisionFlag_keep (old : Byte) : collisionFlag false false old = old := rfl

/-- No pixel is covered twice by a sprite of at most 32 rows. -/
theorem nodup_spritePixels (s : State) (x0 y0 n : Nat) (hn : n ≤ 32) : (s.spritePixels x0 y0 n).Nodup := by
  rw [State.spritePixels, List.nodup_flatMap]
  refine ⟨fun r _ => ?_, ?_⟩
  · refine List.Nodup.map_on (fun a ha b hb e => ?_) (List.Nodup.filter _ List.nodup_range)
    have := congrArg Fin.val e
    simp only [pixelIndex_val, List.mem_filter, List.mem_range] at this ha hb
    omega
  · refine List.Pairwise.imp_of_mem (fun {a b} ha hb hab => ?_) (List.nodup_range (n := n))
    simp only [List.mem_range] at ha hb
    intro p hpa hpb
    simp only [State.spriteRowPixels, List.mem_map, List.mem_filter, List.mem_range] at hpa hpb
    obtain ⟨c, ⟨hc, -⟩, hca⟩ := hpa
    obtain ⟨d, ⟨hd, -⟩, hdb⟩ := hpb
    have := congrArg Fin.val (hca.trans hdb.symm)
    simp only [pixelIndex_val] at this
    omega

end Sys2Proof.Machine
end

