-- ==== Sys2Proof/Tests/Slice0.lean ====
section
/-! SUPPORT. The model's own tests. Expected results are those of spec/95_test_vectors.md (the vector is named) or of the example in the rule; the witnesses at the end meet the hypotheses of the statements in Certificates/Slice0/Obligations.lean. -/

-- One test at a time: each closes by the kernel's evaluation, which waits for the tests before it.
set_option Elab.async false

namespace Sys2Proof.Tests

open Sys2Proof.Machine

/-- What `f` reads in the next state, where there is one. -/
def after {α : Type} (o : Outcome) (f : State → α) : Option α :=
  match o with
  | .next t => some (f t)
  | .fault _ => none
  | .refused _ => none

/-- The start state of 95_test_vectors.md: after `Reset` and `Load` of an empty image. -/
def ready : State := { State.reset with phase := .ready }

/-- One cycle on the word at PC. -/
def run (w : Nat) (s : State) : Outcome := step (s.withFetchWord 16 w)

/-- `ready` with `I` set. -/
def at_i (i : Word) : State := { ready with i := i }

/-- `s` with bytes placed from an address up. -/
def poke (s : State) (a : Nat) (xs : List Byte) : State := s.storeBytes a xs

/-- The keypad with exactly the keys of a list pressed. -/
def keysDown (ks : List Nat) : Vector Bool 16 := Vector.ofFn fun k => ks.contains k.val

/-! ### Well-formedness -/

theorem test_wellFormed_accepts_15_rows : (Instr.drw 0 0 15).wellFormed = true := by decide
theorem test_wellFormed_refuses_16_rows : (Instr.drw 0 0 16).wellFormed = false := by decide

/-! ### Decoding: a word of every row, bit by bit from the "encoding" column of the opcode table -/

theorem test_decode_cls : decodeWord 0b0000000011100000#16 = .ok .cls := by decide
theorem test_decode_ret : decodeWord 0b0000000011101110#16 = .ok .ret := by decide
theorem test_decode_jp : decodeWord 0b0001101010111100#16 = .ok (.jp 0xABC) := by decide
theorem test_decode_call : decodeWord 0b0010001000010000#16 = .ok (.call 0x210) := by decide
theorem test_decode_seByte : decodeWord 0b0011000100000101#16 = .ok (.seByte 1 0x05) := by decide
theorem test_decode_sneByte : decodeWord 0b0100001100010000#16 = .ok (.sneByte 3 0x10) := by decide
theorem test_decode_seReg : decodeWord 0b0101000100100000#16 = .ok (.seReg 1 2) := by decide
theorem test_decode_sneReg : decodeWord 0b1001000100100000#16 = .ok (.sneReg 1 2) := by decide
theorem test_decode_ldByte : decodeWord 0b0110101001000010#16 = .ok (.ldByte 10 0x42) := by decide
theorem test_decode_addByte : decodeWord 0b0111111100000001#16 = .ok (.addByte 15 0x01) := by decide
theorem test_decode_ldReg : decodeWord 0b1000001000110000#16 = .ok (.ldReg 2 3) := by decide
theorem test_decode_orReg : decodeWord 0b1000000100100001#16 = .ok (.orReg 1 2) := by decide
theorem test_decode_andReg : decodeWord 0b1000000100100010#16 = .ok (.andReg 1 2) := by decide
theorem test_decode_xorReg : decodeWord 0b1000000100100011#16 = .ok (.xorReg 1 2) := by decide
theorem test_decode_addReg : decodeWord 0b1000000000010100#16 = .ok (.addReg 0 1) := by decide
theorem test_decode_subReg : decodeWord 0b1000000100100101#16 = .ok (.subReg 1 2) := by decide
theorem test_decode_shr : decodeWord 0b1000000100100110#16 = .ok (.shr 1 2) := by decide
theorem test_decode_subnReg : decodeWord 0b1000000100100111#16 = .ok (.subnReg 1 2) := by decide
theorem test_decode_shl : decodeWord 0b1000010000001110#16 = .ok (.shl 4 0) := by decide
theorem test_decode_ldI : decodeWord 0b1010001100000000#16 = .ok (.ldI 0x300) := by decide
theorem test_decode_jpV0 : decodeWord 0b1011000111111111#16 = .ok (.jpV0 0x1FF) := by decide
theorem test_decode_rnd : decodeWord 0b1100001100001111#16 = .ok (.rnd 3 0x0F) := by decide
theorem test_decode_drw : decodeWord 0b1101000100100101#16 = .ok (.drw 1 2 5) := by decide
theorem test_decode_skp : decodeWord 0b1110010110011110#16 = .ok (.skp 5) := by decide
theorem test_decode_sknp : decodeWord 0b1110010110100001#16 = .ok (.sknp 5) := by decide
theorem test_decode_ldVxDt : decodeWord 0b1111001000000111#16 = .ok (.ldVxDt 2) := by decide
theorem test_decode_ldVxK : decodeWord 0b1111000100001010#16 = .ok (.ldVxK 1) := by decide
theorem test_decode_ldDtVx : decodeWord 0b1111000100010101#16 = .ok (.ldDtVx 1) := by decide
theorem test_decode_ldStVx : decodeWord 0b1111000100011000#16 = .ok (.ldStVx 1) := by decide
theorem test_decode_addI : decodeWord 0b1111001000011110#16 = .ok (.addI 2) := by decide
theorem test_decode_ldF : decodeWord 0b1111000000101001#16 = .ok (.ldF 0) := by decide
theorem test_decode_bcd : decodeWord 0b1111000000110011#16 = .ok (.bcd 0) := by decide
theorem test_decode_storeRegs : decodeWord 0b1111000101010101#16 = .ok (.storeRegs 1) := by decide
theorem test_decode_loadRegs : decodeWord 0b1111001001100101#16 = .ok (.loadRegs 2) := by decide
/-- SYS, the CLS look-alike, 5xyn, 8xy8, 9xyn and the zero word are illegal (D-control, D-alu, D-cycle). -/
theorem test_decode_illegal :
    [0x0123#16, 0x01E0#16, 0x5121#16, 0x8128#16, 0x912F#16, 0x0000#16].all
      (fun w => decodeWord w == .error (.illegalWord w)) = true := by decide
theorem test_decode_truncated : decodeBytes [0x12] = .error .truncated := by decide
/-- S10: bytes 12 34 form the word 0x1234. -/
theorem test_decode_big_endian : decodeBytes [0x12, 0x34, 0x56] = .ok (.jp 0x234, [0x56]) := by decide
theorem test_decode_table_word : decodeTableWord 16 0xD125 = some (.drw 1 2 5) := by decide

/-! ### The cycle (D-cycle) -/

theorem test_fetch_wraps :
    after (step (poke { ready with pc := 0x0FFF } 0xFFF [0x60, 0x42])) (fun t => (t.getV 0, t.pc)) =
      some (0x42, 0x1001) := by decide +kernel
theorem test_odd_pc :
    after (step (poke { ready with pc := 0x201 } 0x201 [0x61, 0x05])) (fun t => (t.getV 1, t.pc)) =
      some (0x05, 0x203) := by decide +kernel
theorem test_zero_word_faults :
    after (step ready) (fun t => (t.phase, t.fault, t.pc)) =
      some (.halted, some ⟨.decodeFailure 0, 0x200⟩, 0x202) := by decide +kernel
theorem test_redraw_cleared : after (run 0x6000 { ready with redraw := true }) (·.redraw) = some false := by
  decide +kernel
theorem test_reset_font :
    ([0x050, 0x054, 0x09B, 0x09C, 0x09F, 0x04F, 0x0A0].map State.reset.memRead, State.reset.pc) =
      ([0xF0, 0xF0, 0xF0, 0x80, 0x80, 0, 0], 0x200) := by decide +kernel

/-! ### Display (D-display, P3) -/

/-- P3, cycle 6: glyph 7 at (62, 30) wraps at both edges; exactly the pixels 0, 127, 191, 1920, 1921, 1982, 1983, 1985 go on. -/
theorem test_drw_wraps :
    after (run 0xD125 (((at_i 0x073).setV 1 0x3E).setV 2 0x1E))
      (fun t => ((List.finRange 2048).filter t.pixel, t.getV 15, t.redraw, t.pc)) =
      some ([0, 127, 191, 1920, 1921, 1982, 1983, 1985], 0, true, 0x202) := by decide +kernel
/-- "partial collision": FB[1] is on, the row is C0. -/
theorem test_drw_partial_collision :
    after (run 0xD011 { poke (at_i 0x300) 0x300 [0xC0] with fb := 2 }) (fun t => (t.pixel 0, t.pixel 1, t.getV 15)) =
      some (true, false, 1) := by decide +kernel
/-- U13: with DRW_CLEARS_VF false a draw with no collision leaves VF alone; with it true (the default) VF ends as 0. -/
theorem test_drw_clears_vf_parameter :
    [false, true].map (fun b => after (run 0xD011
        ({ poke (at_i 0x300) 0x300 [0xC0] with params := { defaultParams with drwClearsVf := b } }.setV 15 0x77))
        (·.getV 15)) = [some 0x77, some 0] := by decide +kernel
/-- S7 and "CLS keeps VF". -/
theorem test_cls :
    after (run 0x00E0 ({ ready with fb := 5 }.setV 15 1)) (fun t => (t.fb, t.redraw, t.getV 15)) =
      some (0, true, 1) := by decide +kernel

/-! ### Control transfer (D-control) -/

theorem test_ret :
    after (run 0x00EE { ready with sp := 2, stack := ready.stack.set 1 0x0346 }) (fun t => (t.sp, t.pc, t.stack[1])) =
      some (1, 0x0346, 0x0346) := by decide +kernel
theorem test_ret_empty :
    after (run 0x00EE ready) (fun t => (t.phase, t.fault, t.pc)) =
      some (.halted, some ⟨.stackUnderflow, 0x200⟩, 0x202) := by decide +kernel
theorem test_call_last_slot :
    after (run 0x2300 { ready with sp := 15 }) (fun t => (t.stack[15], t.sp, t.pc)) =
      some (0x0202, 16, 0x0300) := by decide +kernel
theorem test_call_full :
    after (run 0x2300 { ready with sp := 16 }) (fun t => (t.fault, t.sp, t.pc)) =
      some (some ⟨.stackOverflow 0x300, 0x200⟩, 16, 0x202) := by decide +kernel
theorem test_jp : after (run 0x1ABC ready) (·.pc) = some 0x0ABC := by decide +kernel
theorem test_jpV0_beyond_memory : after (run 0xBFFF (ready.setV 0 0xFF)) (·.pc) = some 0x10FE := by decide +kernel
theorem test_jpV0_uses_v0 : after (run 0xB1FF (ready.setV 1 0x55)) (·.pc) = some 0x01FF := by decide +kernel
theorem test_seByte_skips : after (run 0x3005 (ready.setV 0 5)) (·.pc) = some 0x204 := by decide +kernel
/-- "16-bit PC wrap". -/
theorem test_seByte_wraps : after (run 0x3000 { ready with pc := 0xFFFE }) (·.pc) = some 0x0002 := by decide +kernel
theorem test_sneByte_equal : after (run 0x4005 (ready.setV 0 5)) (·.pc) = some 0x202 := by decide +kernel
theorem test_sneByte_differs : after (run 0x4005 (ready.setV 0 4)) (·.pc) = some 0x204 := by decide +kernel
theorem test_seReg_differs : after (run 0x5010 ((ready.setV 0 7).setV 1 8)) (·.pc) = some 0x202 := by decide +kernel
theorem test_sneReg_differs : after (run 0x9010 ((ready.setV 0 7).setV 1 8)) (·.pc) = some 0x204 := by decide +kernel

/-! ### Registers and arithmetic (S1, S9, D-alu) -/

theorem test_ldByte : after (run 0x6A42 ready) (·.getV 10) = some 0x42 := by decide +kernel
theorem test_addByte_wraps :
    after (run 0x7001 ((ready.setV 0 0xFF).setV 15 0x77)) (fun t => (t.getV 0, t.getV 15)) = some (0, 0x77) := by
  decide +kernel
theorem test_ldReg : after (run 0x8230 (ready.setV 3 0x99)) (·.getV 2) = some 0x99 := by decide +kernel
theorem test_orReg_keeps_vf :
    after (run 0x8121 (((ready.setV 1 0x0F).setV 2 0xF0).setV 15 0xAA)) (fun t => (t.getV 1, t.getV 15)) =
      some (0xFF, 0xAA) := by decide +kernel
theorem test_andReg : after (run 0x8122 ((ready.setV 1 0x3C).setV 2 0x0F)) (·.getV 1) = some 0x0C := by decide +kernel
theorem test_xorReg : after (run 0x8123 ((ready.setV 1 0x3C).setV 2 0x0F)) (·.getV 1) = some 0x33 := by decide +kernel
theorem test_addReg_carry :
    after (run 0x8014 ((ready.setV 0 0xFF).setV 1 0x23)) (fun t => (t.getV 0, t.getV 15)) = some (0x22, 1) := by
  decide +kernel
/-- S9: with x = F the carry stands and the sum is lost. -/
theorem test_addReg_into_vf : after (run 0x8F14 ((ready.setV 15 0xFF).setV 1 1)) (·.getV 15) = some 1 := by
  decide +kernel
theorem test_subReg_borrow :
    after (run 0x8015 (ready.setV 1 1)) (fun t => (t.getV 0, t.getV 15)) = some (0xFF, 0) := by decide +kernel
theorem test_subReg_equal :
    after (run 0x8015 ((ready.setV 0 5).setV 1 5)) (fun t => (t.getV 0, t.getV 15)) = some (0, 1) := by decide +kernel
theorem test_shr_ignores_y :
    after (run 0x8126 ((ready.setV 1 4).setV 2 0xFF)) (fun t => (t.getV 1, t.getV 15, t.getV 2)) =
      some (2, 0, 0xFF) := by decide +kernel
theorem test_shr_into_vf : after (run 0x8F06 (ready.setV 15 3)) (·.getV 15) = some 1 := by decide +kernel
theorem test_subnReg_no_borrow :
    after (run 0x8017 ((ready.setV 0 2).setV 1 7)) (fun t => (t.getV 0, t.getV 15)) = some (5, 1) := by decide +kernel
theorem test_subnReg_borrow :
    after (run 0x8017 (ready.setV 0 1)) (fun t => (t.getV 0, t.getV 15)) = some (0xFF, 0) := by decide +kernel
theorem test_shl_top_bit :
    after (run 0x800E (ready.setV 0 0x80)) (fun t => (t.getV 0, t.getV 15)) = some (0, 1) := by decide +kernel
theorem test_shl_into_vf : after (run 0x8F0E (ready.setV 15 0x40)) (·.getV 15) = some 0 := by decide +kernel
/-- "RND mask": r = A7 given by the host. -/
theorem test_rnd_mask :
    after (step { ready.withFetchWord 16 0xC30F with inputs := [.cycle (some 0xA7)] }) (·.getV 3) = some 0x07 := by
  decide +kernel
/-- With the byte left free the draw is the free value of its number, which is counted. -/
theorem test_rnd_free : after (run 0xC30F ready) (fun t => (t.getV 3, t.draws)) =
    some (Config.randomByte 0 &&& 0x0F, 1) := rfl

/-! ### Index register and memory (S2, S8, D-index) -/

theorem test_ldI : after (run 0xAFFF ready) (·.i) = some 0x0FFF := by decide +kernel
theorem test_addI_wraps : after (run 0xF01E ((at_i 0xFFFF).setV 0 1)) (·.i) = some 0 := by decide +kernel
theorem test_addI_past_memory : after (run 0xF21E ((at_i 0x0FFF).setV 2 2)) (·.i) = some 0x1001 := by decide +kernel
theorem test_ldF_glyph : after (run 0xF029 (ready.setV 0 0x0F)) (·.i) = some 0x009B := by decide +kernel
theorem test_ldF_no_mask : after (run 0xF029 (ready.setV 0 0xFF)) (·.i) = some 0x054B := by decide +kernel
theorem test_bcd_wraps :
    after (run 0xF033 ((at_i 0x0FFE).setV 0 0xFF)) (fun t => (t.memRead 0xFFE, t.memRead 0xFFF, t.memRead 0)) =
      some (2, 5, 5) := by decide +kernel
theorem test_bcd_font :
    after (run 0xF033 ((at_i 0x004E).setV 0 0xFF)) (fun t => (t.fault, t.memRead 0x4E, t.memRead 0x50)) =
      some (some ⟨.fontWrite 0x050, 0x200⟩, 0, 0xF0) := by decide +kernel
theorem test_storeRegs_above_font :
    after (run 0xF155 (((at_i 0x00A0).setV 0 1).setV 1 2)) (fun t => (t.memRead 0xA0, t.memRead 0xA1, t.i)) =
      some (1, 2, 0x00A0) := by decide +kernel
/-- "store, I aliases font". -/
theorem test_storeRegs_aliases_font :
    after (run 0xF155 (at_i 0x104F)) (·.fault) = some (some ⟨.fontWrite 0x050, 0x200⟩) := by decide +kernel
theorem test_loadRegs_font :
    after (run 0xF465 (at_i 0x0050)) (fun t => (t.getV 0, t.getV 1, t.getV 4, t.getV 5)) =
      some (0xF0, 0x90, 0xF0, 0) := by decide +kernel
/-- U16: with another FONT_ROM the font reads as that one. -/
theorem test_loadRegs_font_parameter :
    after (run 0xF165 { at_i 0x009E with params := { defaultParams with fontRom := Vector.ofFn fun k => BitVec.ofNat 8 k.val } })
      (fun t => (t.getV 0, t.getV 1)) = some (78, 79) := by decide +kernel
theorem test_loadRegs_x0 :
    after (run 0xF065 (poke (at_i 0x300) 0x300 [0x12, 0x34])) (fun t => (t.getV 0, t.getV 1)) = some (0x12, 0) := by
  decide +kernel
/-- A byte written with its reset value leaves nothing listed, and the form stays canonical. -/
theorem test_memory_canonical :
    (Memory.write defaultFont (Memory.write defaultFont (Memory.write defaultFont [] 7 1) 3 2) 7 0,
      Memory.write defaultFont [] 0x51 0x90) = ([(3, 2)], []) := by
  decide +kernel

/-! ### Keypad and timers (D-keys) -/

theorem test_skp_key_f :
    after (run 0xE59E ({ ready with keys := keysDown [15] }.setV 5 0x0F)) (·.pc) = some 0x204 := by decide +kernel
theorem test_skp_index_16 :
    after (run 0xE09E (ready.setV 0 0x10)) (fun t => (t.fault, t.pc)) =
      some (some ⟨.keyIndexOutOfRange 0x10, 0x200⟩, 0x202) := by decide +kernel
theorem test_sknp_pressed : after (run 0xE0A1 { ready with keys := keysDown [0] }) (·.pc) = some 0x202 := by
  decide +kernel
theorem test_sknp_not_pressed : after (run 0xE0A1 ready) (·.pc) = some 0x204 := by decide +kernel
theorem test_ldVxDt : after (run 0xF007 { ready with dt := 0x3C }) (fun t => (t.getV 0, t.dt)) = some (0x3C, 0x3C) := by
  decide +kernel
theorem test_ldVxK_least : after (run 0xF00A { ready with keys := keysDown [3, 1] }) (·.getV 0) = some 1 := by
  decide +kernel
/-- "wait at 0000". -/
theorem test_ldVxK_waits :
    after (run 0xF00A { ready.setV 0 0x33 with pc := 0 }) (fun t => (t.getV 0, t.pc)) = some (0x33, 0) := by
  decide +kernel
theorem test_ldDtVx : after (run 0xF015 (ready.setV 0 0xFF)) (·.dt) = some 0xFF := by decide +kernel
theorem test_ldStVx : after (run 0xF018 (ready.setV 0 1)) (·.st) = some 1 := by decide +kernel

/-! ### Transactions (D-cycle, D-keys) -/

theorem test_tick_floor :
    after (step { ready with st := 5, inputs := [.tick] }) (fun t => (t.dt, t.st, t.inputs)) = some (0, 4, []) := by
  decide +kernel
theorem test_setKeys :
    after (step { ready with inputs := [.setKeys (keysDown [2])] }) (·.keys) = some (keysDown [2]) := by decide +kernel
/-- "load odd length". -/
theorem test_load :
    after (step { State.reset with inputs := [.load [0x61]] }) (fun t => (t.fetchWord, t.phase, t.response)) =
      some (0x6100, .ready, .ok) := by decide +kernel
theorem test_load_too_large :
    after (transact (.load (List.replicate 3585 1)) State.reset) (fun t => (t.mem, t.phase, t.response)) =
      some ([], .empty, .rejected (.loadTooLarge 3585)) := by decide +kernel
theorem test_observe :
    after (transact .observe { ready with redraw := true }) (·.response) =
      some (.observed ⟨true, 0, .ready, none⟩) := by decide +kernel
theorem test_reset_recovers :
    after (step { ready with phase := .halted, fault := some ⟨.stackUnderflow, 0⟩, inputs := [.reset, .tick] })
      (fun t => (t.phase, t.fault, t.inputs)) = some (.empty, none, [.tick]) := by decide +kernel
theorem test_cycle_before_load_is_refused : step State.reset = .refused .noMove := rfl
theorem test_cycle_when_halted_is_stuck : step { ready with phase := .halted } = .fault .haltedCore := rfl

/-! ### Witnesses: states and operands that meet each statement's hypotheses, clause by clause -/

/-- A ready core whose next word is `w`, with the transactions `ts` pending. -/
def fetching (w : Nat) (ts : List Transaction) : State := { ready.withFetchWord 16 w with inputs := ts }

theorem witness_DecodeEncodeRoundTrip : (Instr.drw 15 15 15).wellFormed = true := by decide
theorem witness_EncodeDecodeRoundTrip : decodeWord 0xFF65#16 = .ok (.loadRegs 15) := by decide
theorem witness_DecoderAgreesWithOpcodeTable :
    (0xF00F#16 : Word) ≠ 0 ∧ ((0x8006#16, 0xF00F#16) ∈ opcodeRows ∧ matchesRow 0x8FF6#16 (0x8006#16, 0xF00F#16) = true) ∧
      decodeWord 0x8FF6#16 = .ok (.shr 15 15) := by decide +kernel
theorem witness_StepRunsDecodedInstruction :
    ((fetching 0x6A42 []).phase = .ready ∧ decodeWord (fetching 0x6A42 []).fetchWord = .ok (.ldByte 10 0x42) ∧
      (fetching 0x6A42 []).inputs = []) ∧
    (decodeWord (fetching 0xC30F [.cycle (some 7)]).fetchWord = .ok (.rnd 3 0x0F) ∧
      (fetching 0xC30F [.cycle (some 7)]).inputs = .cycle (some 7) :: []) := by decide +kernel
theorem witness_StepRaisesDecodeFailure :
    ((fetching 0x0000 []).phase = .ready ∧
      decodeWord (fetching 0x0000 []).fetchWord = .error (.illegalWord 0) ∧ (fetching 0x0000 []).inputs = []) ∧
    (decodeWord (fetching 0xFFFF [.cycle none, .tick]).fetchWord = .error (.illegalWord 0xFFFF) ∧
      (fetching 0xFFFF [.cycle none, .tick]).inputs = .cycle none :: [.tick]) := by decide +kernel
theorem witness_PhasesAdmitTransactions :
    State.reset.phase = .empty ∧ ready.phase = .ready ∧ { ready with phase := .halted }.phase = .halted ∧
      Transaction.tick ≠ .reset ∧ Transaction.tick ≠ .observe := by decide
theorem witness_TickCountsDown : State.reset.phase = .empty ∧ ready.phase = .ready := by decide
theorem witness_SetKeysOverwritesKeypad :
    State.reset.phase = .empty ∧ ready.phase = .ready ∧ Transaction.tick ≠ .reset ∧
      (∀ k, Transaction.tick ≠ .setKeys k) ∧ after (transact .tick ready) (·.keys) = some ready.keys ∧
      after (transact (.cycle none) (fetching 0x6A42 [])) (·.keys) = some (fetching 0x6A42 []).keys :=
  ⟨rfl, rfl, by decide, fun _ h => Transaction.noConfusion h, by decide +kernel, by decide +kernel⟩
theorem witness_ClsClearsScreen :
    (∀ p : Fin 2048, ready.fb.getLsbD p.val = false) ∧ (∀ x y n, Instr.ldI 5 ≠ .drw x y n) ∧
      after (exec (.ldI 5) ready) (·.i) = some 5 :=
  ⟨fun p => BitVec.getLsbD_zero, fun _ _ _ h => Instr.noConfusion h, by decide +kernel⟩
theorem witness_LoadCopiesImage :
    State.reset.mem.wf State.reset.params.fontRom = true ∧ State.reset.phase = .empty ∧ (List.replicate 3584 (0x12 : Byte)).length ≤ 3584 := by
  exact ⟨rfl, rfl, Nat.le_of_eq List.length_replicate⟩
theorem witness_FirstCycleFetchesImage :
    ([0x60, 0x01] : List Byte).length ≤ 3584 ∧
      after (transact (.load [0x60, 0x01]) State.reset) (·.fetchWord) = some 0x6001 := by decide +kernel
theorem witness_OversizedLoadIsRejected :
    State.reset.phase = .empty ∧ 3584 < (List.replicate 3585 (0x12 : Byte)).length := by
  exact ⟨rfl, by rw [List.length_replicate]; decide⟩
/-- A draw that collides, and one of no rows, which cannot. -/
theorem witness_DrawXorsSprite :
    15 ≤ 15 ∧ PixelOn { poke (at_i 0x300) 0x300 [0x80] with fb := 1 } 0 0 ∧
      SpriteLit { poke (at_i 0x300) 0x300 [0x80] with fb := 1 } 0 0 1 0 0 ∧
      ¬ ∃ px py, px < 64 ∧ py < 32 ∧ PixelOn ready px py ∧ SpriteLit ready 0 0 0 px py :=
  ⟨by decide, by unfold PixelOn; decide +kernel, ⟨0, 0, by decide +kernel⟩,
    fun ⟨_, _, _, _, _, _, _, hr, _⟩ => Nat.not_lt_zero _ hr⟩
theorem witness_DrawTwiceRestores :
    after (exec (.drw 0 0 15) (at_i 0x50)) (fun t => decide (t.getV 0 = (at_i 0x50).getV 0)) = some true := by
  decide +kernel
theorem witness_OnlyDrawReadsDrwClearsVf : ∀ x y n, Instr.cls ≠ .drw x y n := fun _ _ _ h => Instr.noConfusion h
theorem witness_CallPushesAndRetPops :
    { ready with sp := 15 }.sp.val < 16 ∧ { ready with sp := 16 }.sp.val = 16 ∧
      { ready with sp := 16 }.sp.val = (15 : Fin 16).val + 1 ∧ { ready with sp := 1 }.sp.val = (0 : Fin 16).val + 1 ∧
      ready.sp.val = 0 := by decide
theorem witness_CallThenRetReturns :
    { ready with sp := 15 }.sp.val < 16 ∧
      after (exec (.call 0x300) { ready with sp := 15 }) (·.sp) = some 16 := by decide +kernel
theorem witness_CompareSkips : (0xF#4 : BitVec 4) ≠ 0 ∧ (0x1#4 : BitVec 4) ≠ 0 := by decide
theorem witness_AddSetsCarry : (14 : RegIdx) ≠ 15 ∧ (0 : RegIdx) ≠ 15 := by decide
theorem witness_SubtractSetsNotBorrow : (14 : RegIdx) ≠ 15 ∧ (0 : RegIdx) ≠ 15 := by decide
theorem witness_ShiftsMoveOneBit : (14 : RegIdx) ≠ 15 ∧ (0 : RegIdx) ≠ 15 := by decide
theorem witness_RandomByteIsMasked :
    (ready.beginCycle (some 0xFF)).cycleByte = some 0xFF ∧ (ready.beginCycle none).cycleByte = none ∧
      (0x7F#8 : Byte).getLsbD 7 = false := by decide
/-- The last targets below the font, and a block that wraps past 0xFFF. -/
theorem witness_BcdStoresDigits :
    ready.mem.wf ready.params.fontRom = true ∧ firstFontTarget (at_i 0x004D).i.toNat 3 = none ∧
      firstFontTarget (at_i 0x0FFE).i.toNat 3 = none := by decide +kernel
theorem witness_StoreRegsStoresBlock :
    ready.mem.wf ready.params.fontRom = true ∧ firstFontTarget (at_i 0x0040).i.toNat 16 = none ∧
      firstFontTarget (at_i 0x00A0).i.toNat 16 = none := by decide +kernel
theorem witness_StoreThenLoadRestoresRegs :
    (at_i 0x00A0).mem.wf (at_i 0x00A0).params.fontRom = true ∧ firstFontTarget (at_i 0x00A0).i.toNat ((15 : RegIdx).val + 1) = none ∧
      after (exec (.storeRegs 15) (at_i 0x00A0)) (·.phase) = some .ready := by decide +kernel
/-- The last target of each form is the first byte of the font; and the last byte of the font. -/
theorem witness_FontStoreFaults :
    (0x050 ≤ ((at_i 0x004E).i.toNat + 2) % 4096 ∧ ((at_i 0x004E).i.toNat + 2) % 4096 ≤ 0x09F ∧
      (∀ j, j < 2 → ¬ (0x050 ≤ ((at_i 0x004E).i.toNat + j) % 4096 ∧ ((at_i 0x004E).i.toNat + j) % 4096 ≤ 0x09F))) ∧
    (0x050 ≤ ((at_i 0x0041).i.toNat + 15) % 4096 ∧ ((at_i 0x0041).i.toNat + 15) % 4096 ≤ 0x09F ∧
      (∀ j, j < 15 → ¬ (0x050 ≤ ((at_i 0x0041).i.toNat + j) % 4096 ∧ ((at_i 0x0041).i.toNat + j) % 4096 ≤ 0x09F)) ∧
      15 ≤ (15 : RegIdx).val) ∧
    (0x050 ≤ ((at_i 0x009F).i.toNat + 0) % 4096 ∧ ((at_i 0x009F).i.toNat + 0) % 4096 ≤ 0x09F) := by decide +kernel
/-- The byte of k = 0 lands at PC, that of k = 1 on the next address; the last digit lands at PC. -/
theorem witness_StoredByteIsFetched :
    (at_i 0x0200).mem.wf (at_i 0x0200).params.fontRom = true ∧ firstFontTarget (at_i 0x0200).i.toNat ((1 : RegIdx).val + 1) = none ∧
      (0 : RegIdx) ≤ 1 ∧
      after (exec (.storeRegs 1) (at_i 0x0200)) (fun t => decide
        (((at_i 0x0200).i.toNat + (0 : RegIdx).val) % 4096 = t.pc.toNat % 4096 ∧
          ((at_i 0x0200).i.toNat + (1 : RegIdx).val) % 4096 = (t.pc.toNat + 1) % 4096)) = some true ∧
      firstFontTarget (at_i 0x01FE).i.toNat 3 = none ∧
      after (exec (.bcd 1) (at_i 0x01FE)) (fun t => decide (((at_i 0x01FE).i.toNat + 2) % 4096 = t.pc.toNat % 4096)) =
        some true ∧
      after (exec (.bcd 1) (at_i 0x0200)) (fun t => decide
        (((at_i 0x0200).i.toNat + 1) % 4096 = (t.pc.toNat + 1) % 4096)) = some true := by decide +kernel
theorem witness_KeySkips :
    ((ready.setV 0 15).getV 0).toNat = (15 : Fin 16).val ∧ 15 < ((ready.setV 0 16).getV 0).toNat := by decide +kernel
theorem witness_WaitTakesLeastKey :
    ((keysDown [15])[(15 : Fin 16)] = true ∧ ∀ j : Fin 16, j < 15 → (keysDown [15])[j] = false) ∧
      ∀ k : Fin 16, ready.keys[k] = false := by decide +kernel
theorem witness_WaitingCycleDoesNothing :
    (fetching 0xF10A []).phase = .ready ∧ (fetching 0xF10A []).inputs = [] ∧
      decodeWord (fetching 0xF10A []).fetchWord = .ok (.ldVxK 1) ∧
      ∀ k : Fin 16, (fetching 0xF10A []).keys[k] = false := by decide +kernel
theorem witness_EveryTransactionAnswers :
    admitted (.load []) State.reset.phase = true ∧ admitted (.cycle none) ready.phase = true ∧
      admitted .observe Phase.halted = true := by decide
/-- An instruction that completes, one that faults; both ends of the stack, a key test at and above the last key, and the wait. -/
theorem witness_PcAfterEachInstruction :
    after (exec (.jp 0x300) ready) (·.phase) = some ready.phase ∧ after (exec .ret ready) (·.phase) = some .halted ∧
      (ready.phase ≠ .halted ∧ ready.sp.val = 0 ∧ { ready with sp := 16 }.sp.val = (15 : Fin 16).val + 1) ∧
      after (exec (.call 0x300) { ready with sp := 16 }) (·.pc) = some ready.pc ∧
      ((ready.setV 0 15).getV 0).toNat = (15 : Fin 16).val ∧ 15 < ((ready.setV 0 16).getV 0).toNat ∧
      (∀ k : Fin 16, ready.keys[k] = false) ∧ ∃ k : Fin 16, (keysDown [15])[k] = true := by decide +kernel
theorem witness_OnlyDisplayTouchesScreen :
    after (exec .cls ready) (·.redraw) = some true ∧ after (exec (.drw 0 0 1) ready) (·.redraw) = some true ∧
      after (exec (.ldI 5) ready) (·.redraw) = some false := by decide +kernel
theorem witness_FlagWriters :
    after (exec (.addReg 0 1) ready) (·.getV 15) = some 0 ∧ after (exec (.ldByte 0 1) ready) (·.getV 15) = some 0 ∧
      (0 : RegIdx) ≠ 15 := by decide +kernel
theorem witness_RegisterWriters :
    after (exec (.call 0x300) ready) (·.sp) = some 1 ∧ after (exec (.ldI 5) ready) (·.i) = some 5 := by decide +kernel
theorem witness_FaultsArePrecise :
    ready.phase ≠ .halted ∧ after (exec .ret ready) (·.phase) = some .halted := by decide +kernel
theorem witness_HaltedStaysHalted : { ready with phase := .halted, inputs := [.observe] }.phase = .halted := rfl
theorem witness_OnlyRndReadsTheByte : ∀ x kk, Instr.cls ≠ .rnd x kk := fun _ _ h => Instr.noConfusion h
theorem witness_ParametersNeverChange : after (step (fetching 0x6A42 [])) (·.params) = some defaultParams := by
  decide +kernel
theorem witness_StepKeepsInvariant :
    (fetching 0xF055 []).Inv ∧ after (step (fetching 0xF055 [])) (·.phase) = some .ready := by
  refine ⟨⟨by decide +kernel, ?_, rfl⟩, by decide +kernel⟩
  unfold FontIntact
  decide +kernel

end Sys2Proof.Tests
end

section
/-! The keypad: only `SetKeys` and `Reset` change it (40_cycle.md R93); and what `Observe` answers (R94). -/

namespace Sys2Proof.Machine

/-! ### What leaves the keypad alone -/

@[simp] theorem doLoad_keys (s : State) (bytes : List Byte) : (s.doLoad bytes).keys = s.keys := by
  rcases doLoad_cases s bytes with ⟨-, h⟩ | ⟨-, h⟩ <;> rw [h]

/-- No instruction changes the keypad, whether it completes or faults. -/
theorem exec_keeps_keys {i : Instr} {s t : State} (h : exec i s = .next t) : t.keys = s.keys := by
  rcases exec_cases i s with ⟨c, -, he⟩ | ⟨u, he, hsame, -⟩
  · cases he.symm.trans h
    exact enterFault_keys s c
  · cases he.symm.trans h
    exact hsame.keys

/-- No cycle changes the keypad, whether its word decodes or not. -/
theorem runCycle_keeps_keys {r : Option Byte} {s t : State} (h : runCycle r s = .next t) : t.keys = s.keys := by
  rcases runCycle_cases r s with ⟨i, -, hrun⟩ | ⟨e, -, hrun⟩
  · exact (exec_keeps_keys (hrun.symm.trans h)).trans (beginCycle_keys s r)
  · cases hrun.symm.trans h
    rfl

/-- The snapshot holds until the next `SetKeys` or `Reset` (R93). -/
theorem transact_keeps_keys {x : Transaction} {s t : State} (hreset : x ≠ .reset) (hset : ∀ k, x ≠ .setKeys k)
    (h : transact x s = .next t) : t.keys = s.keys := by
  obtain ⟨-, hp⟩ := transact_next h
  cases x with
  | reset => exact absurd rfl hreset
  | setKeys k => exact absurd rfl (hset k)
  | cycle r => exact runCycle_keeps_keys hp
  | load bytes =>
    cases hp
    exact doLoad_keys s bytes
  | tick =>
    cases hp
    exact doTick_keys s
  | observe =>
    cases hp
    exact doObserve_keys s

/-! ### The two transactions performed -/

theorem transact_setKeys {s : State} (k : Vector Bool 16) (h : s.phase = .empty ∨ s.phase = .ready) :
    transact (.setKeys k) s = .next (s.doSetKeys k) := by
  apply transact_admitted
  rcases h with h | h <;> rw [h] <;> rfl

/-- Every phase admits `Observe` (R92). -/
theorem transact_observe (s : State) : transact .observe s = .next s.doObserve :=
  transact_admitted rfl

/-! ### The obligations -/

/-- Settles O11: `SetKeys` replaces the field `keys` at once, and a case split over the transactions shows that
every other one but `Reset` keeps it. -/
theorem setKeysOverwritesKeypad : Obligations.SetKeysOverwritesKeypad := by
  intro s k hphase
  exact ⟨s.doSetKeys k, transact_setKeys k hphase, fun _ => rfl, rfl,
    fun _ _ _ hreset hset h => transact_keeps_keys hreset hset h⟩

/-- Settles O12: `Observe` writes the four values to `response` and nothing else. -/
theorem observeChangesNothing : Obligations.ObserveChangesNothing := fun s =>
  ⟨s.doObserve, ⟨s.redraw, s.fb, s.phase, s.fault⟩, transact_observe s, rfl, rfl, fun _ => rfl, rfl, rfl⟩

end Sys2Proof.Machine
end

section
/-! The screen: `CLS` turns every pixel off (41_display.md R100), and only `CLS` and `DRW` touch the screen. -/

namespace Sys2Proof.Machine

/-! ### What leaves the screen alone -/

/-- A store of bytes leaves the screen alone, whether it completes or faults. -/
theorem storeChecked_keeps_screen {base : Nat} {xs : List Byte} {s t : State}
    (h : storeChecked base xs s = .next t) : t.fb = s.fb ∧ t.redraw = s.redraw := by
  rcases storeChecked_cases base xs s with ⟨b, -, hs⟩ | ⟨-, hs⟩ <;> cases hs.symm.trans h
  · exact ⟨enterFault_fb s _, enterFault_redraw s _⟩
  · exact ⟨storeBytes_fb s base xs, storeBytes_redraw s base xs⟩

/-- A key test leaves the screen alone, whether it completes or faults. -/
theorem skipOnKey_keeps_screen {x : RegIdx} {pressed : Bool} {s t : State}
    (h : skipOnKey x pressed s = .next t) : t.fb = s.fb ∧ t.redraw = s.redraw := by
  rcases skipOnKey_cases x pressed s with ⟨-, hs⟩ | ⟨_, hs⟩ <;> cases hs.symm.trans h
  · exact ⟨enterFault_fb s _, enterFault_redraw s _⟩
  · exact ⟨skipIf_fb s _, skipIf_redraw s _⟩

/-- `RET` leaves the screen alone, whether it pops or underflows (R111). -/
theorem execRet_keeps_screen {s t : State} (h : execRet s = .next t) : t.fb = s.fb ∧ t.redraw = s.redraw := by
  unfold execRet at h
  split at h <;> cases h <;> exact ⟨rfl, rfl⟩

/-- `CALL` leaves the screen alone, whether it pushes or overflows (R113). -/
theorem execCall_keeps_screen {nnn : Addr12} {s t : State} (h : execCall nnn s = .next t) :
    t.fb = s.fb ∧ t.redraw = s.redraw := by
  unfold execCall at h
  split at h <;> cases h <;> exact ⟨rfl, rfl⟩

/-- `LD Vx, K` leaves the screen alone, whether it finds a key or waits (R174). -/
theorem execLdVxK_keeps_screen {x : RegIdx} {s t : State} (h : execLdVxK x s = .next t) :
    t.fb = s.fb ∧ t.redraw = s.redraw := by
  unfold execLdVxK at h
  split at h <;> cases h <;> exact ⟨rfl, rfl⟩

/-- Only `CLS` and `DRW` touch the pixels and the redraw signal. -/
theorem exec_keeps_screen {i : Instr} {s t : State} (hcls : i ≠ .cls) (hdrw : ∀ x y n, i ≠ .drw x y n)
    (h : exec i s = .next t) : t.fb = s.fb ∧ t.redraw = s.redraw := by
  cases i with
  | cls => exact absurd rfl hcls
  | drw x y n => exact absurd rfl (hdrw x y n)
  | ret => exact execRet_keeps_screen h
  | call nnn => exact execCall_keeps_screen h
  | skp x => exact skipOnKey_keeps_screen h
  | sknp x => exact skipOnKey_keeps_screen h
  | bcd x => exact storeChecked_keeps_screen h
  | storeRegs x => exact storeChecked_keeps_screen h
  | ldVxK x => exact execLdVxK_keeps_screen h
  | loadRegs x =>
    cases h
    exact ⟨loadBlock_fb s x, loadBlock_redraw s x⟩
  | jp | seByte | sneByte | seReg | sneReg | ldByte | addByte | ldReg | orReg | andReg | xorReg | addReg
  | subReg | shr | subnReg | shl | ldI | jpV0 | rnd | ldVxDt | ldDtVx | ldStVx | addI | ldF =>
    cases h
    exact ⟨rfl, rfl⟩

/-! ### The blank screen -/

/-- The word of `CLS` (R75). -/
theorem decodeWord_cls : decodeWord 0x00E0#16 = .ok .cls := rfl

/-- `CLS` blanks the screen and sets `redraw` (R100). -/
theorem exec_cls (s : State) : exec .cls s = .next { s with fb := 0, redraw := true } := rfl

/-- A blank screen stays blank under every instruction but `DRW`. -/
theorem exec_keeps_blank {i : Instr} {s t : State} (hdrw : ∀ x y n, i ≠ .drw x y n)
    (hblank : ∀ p : Fin 2048, s.fb.getLsbD p.val = false) (h : exec i s = .next t) (p : Fin 2048) :
    t.fb.getLsbD p.val = false := by
  by_cases hcls : i = .cls
  · subst hcls
    cases (exec_cls s).symm.trans h
    exact BitVec.getLsbD_zero
  · obtain ⟨hfb, -⟩ := exec_keeps_screen hcls hdrw h
    rw [hfb]
    exact hblank p

/-! ### The obligation -/

/-- Settles O18: `CLS` leaves the zero screen, and a case split over the instructions shows that every other one but
`DRW` leaves the screen as it was. -/
theorem clsClearsScreen : Obligations.ClsClearsScreen :=
  ⟨decodeWord_cls, fun s => ⟨{ s with fb := 0, redraw := true }, exec_cls s, fun _ => BitVec.getLsbD_zero, rfl, rfl,
    fun _ _ _ hblank hdrw h => exec_keeps_blank hdrw hblank h⟩⟩

end Sys2Proof.Machine
end

section
/-! The jump: `JP` sets PC to its target and changes nothing else (42_control_flow.md R112). -/

namespace Sys2Proof

/-! ### The fields of a format-`A` word (R71, R72) -/

@[simp] theorem fieldFamily_encodeA (f : BitVec 4) (nnn : Addr12) : fieldFamily (encodeA f nnn) = f.toFin :=
  congrArg BitVec.toFin (BitVec.extractLsb'_append_eq_left (a := f) (b := nnn))

@[simp] theorem fieldNNN_encodeA (f : BitVec 4) (nnn : Addr12) : fieldNNN (encodeA f nnn) = nnn :=
  BitVec.extractLsb'_append_eq_right

/-- Family 1 is the jump, whatever its target (R75). -/
theorem decodeWord_encodeA_jp (nnn : Addr12) : decodeWord (encodeA 0x1#4 nnn) = .ok (.jp nnn) := by
  have hfamily : fieldFamily (encodeA 0x1#4 nnn) = 0x1 := fieldFamily_encodeA 0x1#4 nnn
  rw [decodeWord, hfamily]
  simp only [fieldNNN_encodeA]

namespace Machine

/-! ### The jump performed -/

/-- Zero-extension keeps the value of an address (R73). -/
@[simp] theorem toNat_zextAddr (nnn : Addr12) : (zextAddr nnn).toNat = nnn.toNat :=
  BitVec.toNat_setWidth_of_le (by decide)

/-- `JP` writes PC alone (R112). -/
theorem exec_jp (nnn : Addr12) (s : State) : exec (.jp nnn) s = .next { s with pc := zextAddr nnn } := rfl

/-! ### The obligation -/

/-- Settles O22: the word `1nnn` is format `A` with family 1, and zero-extension keeps the value of the target. -/
theorem jumpSetsPc : Obligations.JumpSetsPc := fun nnn =>
  ⟨decodeWord_encodeA_jp nnn, fun s => ⟨{ s with pc := zextAddr nnn }, exec_jp nnn s, toNat_zextAddr nnn, rfl⟩⟩

end Machine
end Sys2Proof
end

section
/-! The moves and the immediate add: each writes `V[x]` alone (43_alu.md R131 to R133). -/

namespace Sys2Proof

/-! ### The fields of the words of formats `XK` and `XY` (R71, R72) -/

/-- Format `XK` is format `A` with the register number and the byte as its twelve bits. -/
theorem encodeXK_eq_encodeA (f : BitVec 4) (x : RegIdx) (kk : Byte) :
    encodeXK f x kk = encodeA f (regBits x ++ kk) :=
  BitVec.append_assoc

/-- Format `XY` is format `XK` with the second register number and the nibble as its byte. -/
theorem encodeXY_eq_encodeXK (f : BitVec 4) (x y : RegIdx) (n : BitVec 4) :
    encodeXY f x y n = encodeXK f x (regBits y ++ n) :=
  BitVec.append_assoc

@[simp] theorem fieldFamily_encodeXK (f : BitVec 4) (x : RegIdx) (kk : Byte) :
    fieldFamily (encodeXK f x kk) = f.toFin := by
  rw [encodeXK_eq_encodeA, fieldFamily_encodeA]

@[simp] theorem fieldX_encodeXK (f : BitVec 4) (x : RegIdx) (kk : Byte) : fieldX (encodeXK f x kk) = x := by
  have hx : (f ++ regBits x ++ kk).extractLsb' 8 4 = regBits x := by
    rw [BitVec.extractLsb'_append_eq_of_le (by decide)]
    exact BitVec.extractLsb'_append_eq_right
  exact congrArg BitVec.toFin hx

@[simp] theorem fieldKK_encodeXK (f : BitVec 4) (x : RegIdx) (kk : Byte) : fieldKK (encodeXK f x kk) = kk :=
  BitVec.extractLsb'_append_eq_right

@[simp] theorem fieldFamily_encodeXY (f n : BitVec 4) (x y : RegIdx) :
    fieldFamily (encodeXY f x y n) = f.toFin := by
  rw [encodeXY_eq_encodeXK, fieldFamily_encodeXK]

@[simp] theorem fieldX_encodeXY (f n : BitVec 4) (x y : RegIdx) : fieldX (encodeXY f x y n) = x := by
  rw [encodeXY_eq_encodeXK, fieldX_encodeXK]

@[simp] theorem fieldY_encodeXY (f n : BitVec 4) (x y : RegIdx) : fieldY (encodeXY f x y n) = y := by
  have hy : (f ++ regBits x ++ regBits y ++ n).extractLsb' 4 4 = regBits y := by
    rw [BitVec.extractLsb'_append_eq_of_le (by decide)]
    exact BitVec.extractLsb'_append_eq_right
  exact congrArg BitVec.toFin hy

@[simp] theorem fieldN_encodeXY (f n : BitVec 4) (x y : RegIdx) : fieldN (encodeXY f x y n) = n.toFin :=
  congrArg BitVec.toFin BitVec.extractLsb'_append_eq_right

/-! ### The words of the three instructions (R75) -/

theorem decodeWord_encodeXK_ldByte (x : RegIdx) (kk : Byte) :
    decodeWord (encodeXK 0x6#4 x kk) = .ok (.ldByte x kk) := by
  have hfamily : fieldFamily (encodeXK 0x6#4 x kk) = 0x6 := fieldFamily_encodeXK 0x6#4 x kk
  rw [decodeWord, hfamily]
  simp only [fieldX_encodeXK, fieldKK_encodeXK]

theorem decodeWord_encodeXK_addByte (x : RegIdx) (kk : Byte) :
    decodeWord (encodeXK 0x7#4 x kk) = .ok (.addByte x kk) := by
  have hfamily : fieldFamily (encodeXK 0x7#4 x kk) = 0x7 := fieldFamily_encodeXK 0x7#4 x kk
  rw [decodeWord, hfamily]
  simp only [fieldX_encodeXK, fieldKK_encodeXK]

/-- Family 8 is decoded by its own table, whatever its nibble. -/
theorem decodeWord_encodeXY_family8 (x y : RegIdx) (n : BitVec 4) :
    decodeWord (encodeXY 0x8#4 x y n) = decodeFamily8 (encodeXY 0x8#4 x y n) := by
  have hfamily : fieldFamily (encodeXY 0x8#4 x y n) = 0x8 := fieldFamily_encodeXY 0x8#4 n x y
  rw [decodeWord, hfamily]
  rfl

theorem decodeWord_encodeXY_ldReg (x y : RegIdx) :
    decodeWord (encodeXY 0x8#4 x y 0x0#4) = .ok (.ldReg x y) := by
  have hnibble : fieldN (encodeXY 0x8#4 x y 0x0#4) = 0x0 := fieldN_encodeXY 0x8#4 0x0#4 x y
  rw [decodeWord_encodeXY_family8, decodeFamily8, hnibble]
  simp only [fieldX_encodeXY, fieldY_encodeXY]

namespace Machine

/-! ### One register written -/

/-- `setV` changes the register it names and nothing else. -/
theorem onlyRegs_setV (s : State) (x : RegIdx) (b : Byte) : OnlyRegs [x] s (s.setV x b) :=
  ⟨rfl, fun _ hk => getV_setV_ne s b (List.ne_of_not_mem_cons hk)⟩

theorem exec_ldByte (x : RegIdx) (kk : Byte) (s : State) : exec (.ldByte x kk) s = .next (s.setV x kk) := rfl

theorem exec_addByte (x : RegIdx) (kk : Byte) (s : State) :
    exec (.addByte x kk) s = .next (s.setV x (s.getV x + kk)) := rfl

theorem exec_ldReg (x y : RegIdx) (s : State) : exec (.ldReg x y) s = .next (s.setV x (s.getV y)) := rfl

/-- `ADD` immediate leaves the sum modulo 256 (R132). -/
theorem toNat_getV_setV_add (s : State) (x : RegIdx) (kk : Byte) :
    ((s.setV x (s.getV x + kk)).getV x).toNat = ((s.getV x).toNat + kk.toNat) % 256 := by
  rw [getV_setV_same, BitVec.toNat_add]

/-! ### The obligation -/

/-- Settles O27: the three words are of formats `XK` and `XY`, and each instruction answers one `setV` of `V[x]`. -/
theorem movesAndAddImmediate : Obligations.MovesAndAddImmediate := by
  intro x y kk
  refine ⟨decodeWord_encodeXK_ldByte x kk, decodeWord_encodeXK_addByte x kk, decodeWord_encodeXY_ldReg x y,
    fun s => ⟨?ldByte, ?addByte, ?ldReg⟩⟩
  case ldByte => exact ⟨_, exec_ldByte x kk s, getV_setV_same s x kk, onlyRegs_setV s x kk⟩
  case addByte => exact ⟨_, exec_addByte x kk s, toNat_getV_setV_add s x kk, onlyRegs_setV s x _⟩
  case ldReg => exact ⟨_, exec_ldReg x y s, getV_setV_same s x _, onlyRegs_setV s x _⟩

end Machine
end Sys2Proof
end

section
/-! The index load: `LD I` sets I to its address and changes nothing else (44_index_memory.md R150). -/

namespace Sys2Proof

/-- Family A is the index load, whatever its address (R75). -/
theorem decodeWord_encodeA_ldI (nnn : Addr12) : decodeWord (encodeA 0xA#4 nnn) = .ok (.ldI nnn) := by
  have hfamily : fieldFamily (encodeA 0xA#4 nnn) = 0xA := fieldFamily_encodeA 0xA#4 nnn
  rw [decodeWord, hfamily]
  simp only [fieldNNN_encodeA]

namespace Machine

/-- `LD I` writes I alone (R150). -/
theorem exec_ldI (nnn : Addr12) (s : State) : exec (.ldI nnn) s = .next { s with i := zextAddr nnn } := rfl

/-- Settles O33: the word `Annn` is format `A` with family A, and zero-extension keeps the value of the address. -/
theorem loadIndexSetsI : Obligations.LoadIndexSetsI := fun nnn =>
  ⟨decodeWord_encodeA_ldI nnn, fun s => ⟨{ s with i := zextAddr nnn }, exec_ldI nnn s, toNat_zextAddr nnn, rfl⟩⟩

end Machine
end Sys2Proof
end

section
/-! The timer moves: each moves one byte between `V[x]` and a timer and changes nothing else
(45_keypad_timers.md R173, R176, R177). -/

namespace Sys2Proof

/-! ### The words of format `X` (R71, R72, R75) -/

/-- Format `X` is format `XK` with the selector as its byte. -/
theorem encodeX_eq_encodeXK (f : BitVec 4) (x : RegIdx) (sub : Byte) : encodeX f x sub = encodeXK f x sub := rfl

@[simp] theorem fieldX_encodeX (f : BitVec 4) (x : RegIdx) (sub : Byte) : fieldX (encodeX f x sub) = x := by
  rw [encodeX_eq_encodeXK, fieldX_encodeXK]

@[simp] theorem fieldKK_encodeX (f : BitVec 4) (x : RegIdx) (sub : Byte) : fieldKK (encodeX f x sub) = sub := by
  rw [encodeX_eq_encodeXK, fieldKK_encodeXK]

/-- Family F is decoded by its own table, whatever its selector. -/
theorem decodeWord_encodeX_familyF (x : RegIdx) (sub : Byte) :
    decodeWord (encodeX 0xF#4 x sub) = decodeFamilyF (encodeX 0xF#4 x sub) := by
  have hfamily : fieldFamily (encodeX 0xF#4 x sub) = 0xF := fieldFamily_encodeXK 0xF#4 x sub
  rw [decodeWord, hfamily]
  rfl

theorem decodeWord_encodeX_ldVxDt (x : RegIdx) : decodeWord (encodeX 0xF#4 x 0x07#8) = .ok (.ldVxDt x) := by
  rw [decodeWord_encodeX_familyF, decodeFamilyF, fieldKK_encodeX]
  simp only [fieldX_encodeX]

theorem decodeWord_encodeX_ldDtVx (x : RegIdx) : decodeWord (encodeX 0xF#4 x 0x15#8) = .ok (.ldDtVx x) := by
  rw [decodeWord_encodeX_familyF, decodeFamilyF, fieldKK_encodeX]
  simp only [fieldX_encodeX]

theorem decodeWord_encodeX_ldStVx (x : RegIdx) : decodeWord (encodeX 0xF#4 x 0x18#8) = .ok (.ldStVx x) := by
  rw [decodeWord_encodeX_familyF, decodeFamilyF, fieldKK_encodeX]
  simp only [fieldX_encodeX]

namespace Machine

/-! ### The three moves performed -/

/-- The read of DT writes `V[x]` alone, so DT keeps its value (R173). -/
theorem exec_ldVxDt (x : RegIdx) (s : State) : exec (.ldVxDt x) s = .next (s.setV x s.dt) := rfl

/-- `LD DT` writes DT alone (R176). -/
theorem exec_ldDtVx (x : RegIdx) (s : State) : exec (.ldDtVx x) s = .next { s with dt := s.getV x } := rfl

/-- `LD ST` writes ST alone (R177). -/
theorem exec_ldStVx (x : RegIdx) (s : State) : exec (.ldStVx x) s = .next { s with st := s.getV x } := rfl

/-! ### The obligation -/

/-- Settles O44: the three words are of format `X` in family F; the read answers one `setV` of `V[x]`, and each write
replaces one timer field. -/
theorem timerMoves : Obligations.TimerMoves := by
  intro x
  refine ⟨decodeWord_encodeX_ldVxDt x, decodeWord_encodeX_ldDtVx x, decodeWord_encodeX_ldStVx x,
    fun s => ⟨?ldVxDt, ?ldDtVx, ?ldStVx⟩⟩
  case ldVxDt => exact ⟨_, exec_ldVxDt x s, getV_setV_same s x s.dt, onlyRegs_setV s x s.dt⟩
  case ldDtVx => exact ⟨_, exec_ldDtVx x s, rfl, rfl⟩
  case ldStVx => exact ⟨_, exec_ldStVx x s, rfl, rfl⟩

end Machine
end Sys2Proof
end

section
/-! The timers: `Tick` counts each down by one, floored at zero, and changes nothing else (60_exceptions.md R214). -/

namespace Sys2Proof.Machine

/-- One count down is the natural subtraction of one, whose floor at zero is R214's. -/
theorem toNat_countDown (b : Byte) : (countDown b).toNat = b.toNat - 1 := by
  unfold countDown
  split
  case isTrue hzero => rw [hzero]; rfl
  case isFalse hpos => bv_omega

/-- `Tick` is admitted before and after the load (R92). -/
theorem transact_tick {s : State} (h : s.phase = .empty ∨ s.phase = .ready) :
    transact .tick s = .next s.doTick := by
  apply transact_admitted
  rcases h with h | h <;> rw [h] <;> rfl

/-- Settles O10: both phases admit `Tick`, which replaces each timer by its count down. -/
theorem tickCountsDown : Obligations.TickCountsDown := fun s hphase =>
  ⟨s.doTick, transact_tick hphase, toNat_countDown s.dt, toNat_countDown s.st, rfl⟩

end Sys2Proof.Machine
end

section
/-! The reset: `Reset` sets every piece of state to its reset value, in every phase (70_reset_and_hazards.md R230). -/

namespace Sys2Proof.Machine

/-- Every phase admits `Reset` (R92). -/
theorem transact_reset (s : State) : transact .reset s = .next s.restart :=
  transact_admitted rfl

/-! ### The register files at reset (R37) -/

@[simp] theorem getV_restart (s : State) (k : RegIdx) : s.restart.getV k = 0 :=
  Vector.getElem_replicate k.isLt

theorem getElem_stack_restart (s : State) (j : Fin 16) : s.restart.stack[j] = 0 :=
  Vector.getElem_replicate j.isLt

theorem getElem_keys_restart (s : State) (j : Fin 16) : s.restart.keys[j] = false :=
  Vector.getElem_replicate j.isLt

/-! ### Memory at reset (R37) -/

/-- `Reset` lists no byte, so every address reads as its reset value, in this core's FONT_ROM. -/
theorem memRead_restart (s : State) {a : Nat} (h : a < 4096) :
    s.restart.memRead a = resetByte s.params.fontRom a := by
  have hreduce : reduce a = a := Nat.mod_eq_of_lt h
  rw [State.memRead, hreduce]
  rfl

/-- After `Reset` the font holds FONT_ROM, whatever memory held before. -/
theorem fontIntact_restart (s : State) : FontIntact s.restart := by
  intro k
  have hfont : 0x050 ≤ 0x050 + k.val ∧ 0x050 + k.val ≤ 0x09F := by omega
  rw [memRead_restart s (by omega), resetByte_font _ hfont]
  simp

/-- After `Reset` memory is zero outside the font, whatever it held before. -/
theorem memRead_restart_outside_font (s : State) {a : Nat} (h : a < 4096) (hout : a < 0x050 ∨ 0x09F < a) :
    s.restart.memRead a = 0 := by
  rw [memRead_restart s h, resetByte_zero _ (by omega)]

/-! ### The obligation -/

/-- Settles O16: every phase admits `Reset`, whose `restart` holds the reset value in each field and lists no byte of
memory. -/
theorem resetRestoresEveryValue : Obligations.ResetRestoresEveryValue := by
  intro s
  refine ⟨s.restart, transact_reset s, getV_restart s, restart_i s, restart_pc s, restart_sp s, ?stack, restart_dt s,
    restart_st s, ?fb, ?keys, restart_redraw s, restart_phase s, restart_fault s, ?font, ?outside⟩
  case stack => exact getElem_stack_restart s
  case fb => exact fun _ => BitVec.getLsbD_zero
  case keys => exact getElem_keys_restart s
  case font => exact fontIntact_restart s
  case outside => exact fun _ => memRead_restart_outside_font s

end Sys2Proof.Machine
end

section
/-! The encoding: encoder and decoder are inverse to each other, and both agree with the opcode table
(30_encoding.md R71 to R78). -/

namespace Sys2Proof

/-! ### Decoding the word of an instruction (R72, R75) -/

/-- Family E is decoded by its own table, whatever its selector. -/
theorem decodeWord_encodeX_familyE (x : RegIdx) (sub : Byte) :
    decodeWord (encodeX 0xE#4 x sub) = decodeFamilyE (encodeX 0xE#4 x sub) := by
  have hfamily : fieldFamily (encodeX 0xE#4 x sub) = 0xE := fieldFamily_encodeXK 0xE#4 x sub
  rw [decodeWord, hfamily]
  rfl

/-- The decoder undoes the encoder: it selects the arm by the family, the nibble or the byte that the format fixes,
and reads back each operand's field. -/
theorem decodeWord_encode {i : Instr} (h : i.wellFormed = true) : decodeWord (encode i) = .ok i := by
  cases i with
  | cls => rfl
  | ret => rfl
  | jp nnn => exact decodeWord_encodeA_jp nnn
  | ldI nnn => exact decodeWord_encodeA_ldI nnn
  | call nnn | jpV0 nnn => rw [encode, decodeWord, fieldFamily_encodeA, fieldNNN_encodeA]; rfl
  | seByte x kk | sneByte x kk | ldByte x kk | addByte x kk | rnd x kk =>
    rw [encode, decodeWord, fieldFamily_encodeXK, fieldX_encodeXK, fieldKK_encodeXK]; rfl
  | seReg x y | sneReg x y =>
    rw [encode, decodeWord, fieldFamily_encodeXY, fieldX_encodeXY, fieldY_encodeXY, fieldN_encodeXY]; rfl
  | ldReg x y | orReg x y | andReg x y | xorReg x y | addReg x y | subReg x y | shr x y | subnReg x y | shl x y =>
    rw [encode, decodeWord_encodeXY_family8, decodeFamily8, fieldX_encodeXY, fieldY_encodeXY, fieldN_encodeXY]; rfl
  | drw x y n =>
    have hn : n ≤ 15 := of_decide_eq_true h
    have hnibble : (BitVec.ofNat 4 n).toNat = n := Nat.mod_eq_of_lt (by omega)
    rw [encode, decodeWord, fieldFamily_encodeXY, fieldX_encodeXY, fieldY_encodeXY, fieldN_encodeXY]
    exact congrArg (fun k => Except.ok (Instr.drw x y k)) hnibble
  | skp x | sknp x => rw [encode, decodeWord_encodeX_familyE, decodeFamilyE, fieldX_encodeX, fieldKK_encodeX]; rfl
  | ldVxDt x | ldVxK x | ldDtVx x | ldStVx x | addI x | ldF x | bcd x | storeRegs x | loadRegs x =>
    rw [encode, decodeWord_encodeX_familyF, decodeFamilyF, fieldX_encodeX, fieldKK_encodeX]; rfl

/-! ### Encoding the fields of a word gives the word back -/

/-- The family and the other twelve bits are the whole word. -/
theorem encodeA_fields {w : Word} {f : BitVec 4} (hf : fieldFamily w = f.toFin) : encodeA f (fieldNNN w) = w := by
  have hbits : f = w.extractLsb' 12 4 := BitVec.eq_of_toFin_eq hf.symm
  rw [encodeA, fieldNNN, hbits, BitVec.extractLsb'_append_extractLsb'_eq_extractLsb' (by decide)]
  exact BitVec.extractLsb'_eq_self

theorem encodeXK_fields {w : Word} {f : BitVec 4} (hf : fieldFamily w = f.toFin) :
    encodeXK f (fieldX w) (fieldKK w) = w := by
  have hnnn : regBits (fieldX w) ++ fieldKK w = fieldNNN w :=
    BitVec.extractLsb'_append_extractLsb'_eq_extractLsb' (by decide)
  rw [encodeXK_eq_encodeA, hnnn, encodeA_fields hf]

theorem encodeXY_fields {w : Word} {f n : BitVec 4} (hf : fieldFamily w = f.toFin) (hn : fieldN w = n.toFin) :
    encodeXY f (fieldX w) (fieldY w) n = w := by
  have hbits : n = w.extractLsb' 0 4 := BitVec.eq_of_toFin_eq hn.symm
  have hkk : regBits (fieldY w) ++ w.extractLsb' 0 4 = fieldKK w :=
    BitVec.extractLsb'_append_extractLsb'_eq_extractLsb' (by decide)
  rw [encodeXY_eq_encodeXK, hbits, hkk, encodeXK_fields hf]

theorem encodeX_fields {w : Word} {f : BitVec 4} {sub : Byte} (hf : fieldFamily w = f.toFin)
    (hkk : fieldKK w = sub) : encodeX f (fieldX w) sub = w := by
  rw [encodeX_eq_encodeXK, ← hkk, encodeXK_fields hf]

/-! ### What the decoder accepts -/

/-- A nibble read as a number of rows is the nibble again. -/
theorem toFin_ofNat_fieldN (w : Word) : (BitVec.ofNat 4 (fieldN w).val).toFin = fieldN w :=
  Fin.ext (Nat.mod_eq_of_lt (fieldN w).isLt)

theorem wellFormed_drw_fieldN (x y : RegIdx) (w : Word) : (Instr.drw x y (fieldN w).val).wellFormed = true :=
  decide_eq_true (Nat.le_of_lt_succ (fieldN w).isLt)

theorem encode_of_decodeFamily8 {w : Word} {i : Instr} (hf : fieldFamily w = 0x8) (h : decodeFamily8 w = .ok i) :
    encode i = w ∧ i.wellFormed = true := by
  unfold decodeFamily8 at h
  split at h <;> cases h <;> exact ⟨encodeXY_fields hf ‹_›, rfl⟩

theorem encode_of_decodeFamilyE {w : Word} {i : Instr} (hf : fieldFamily w = 0xE) (h : decodeFamilyE w = .ok i) :
    encode i = w ∧ i.wellFormed = true := by
  unfold decodeFamilyE at h
  split at h <;> cases h <;> exact ⟨encodeX_fields hf ‹_›, rfl⟩

theorem encode_of_decodeFamilyF {w : Word} {i : Instr} (hf : fieldFamily w = 0xF) (h : decodeFamilyF w = .ok i) :
    encode i = w ∧ i.wellFormed = true := by
  unfold decodeFamilyF at h
  split at h <;> cases h <;> exact ⟨encodeX_fields hf ‹_›, rfl⟩

/-- A word that decodes is the word of the instruction it decodes to. -/
theorem encode_of_decodeWord {w : Word} {i : Instr} (h : decodeWord w = .ok i) :
    encode i = w ∧ i.wellFormed = true := by
  unfold decodeWord at h
  split at h
  case h_1 =>
    split at h
    · cases h; exact ⟨by subst w; rfl, rfl⟩
    · split at h <;> cases h
      exact ⟨by subst w; rfl, rfl⟩
  case h_6 | h_10 =>
    split at h <;> cases h
    exact ⟨encodeXY_fields ‹fieldFamily w = _› ‹fieldN w = _›, rfl⟩
  case h_2 | h_3 | h_11 | h_12 => cases h; exact ⟨encodeA_fields ‹fieldFamily w = _›, rfl⟩
  case h_4 | h_5 | h_7 | h_8 | h_13 => cases h; exact ⟨encodeXK_fields ‹fieldFamily w = _›, rfl⟩
  case h_9 hf => exact encode_of_decodeFamily8 hf h
  case h_14 hf =>
    cases h
    exact ⟨encodeXY_fields hf (toFin_ofNat_fieldN w).symm, wellFormed_drw_fieldN _ _ w⟩
  case h_15 hf => exact encode_of_decodeFamilyE hf h
  case h_16 => exact encode_of_decodeFamilyF (by grind) h

/-! ### The obligations -/

namespace Machine

/-- Settles O1: for each instruction, its format's fields select its arm of the decoder and give back its operands. -/
theorem decodeEncodeRoundTrip : Obligations.DecodeEncodeRoundTrip := fun _ => decodeWord_encode

/-- Settles O2: each arm of the decoder fixes the family, and where it needs them the nibble or the byte, of the format
that its instruction is encoded in. -/
theorem encodeDecodeRoundTrip : Obligations.EncodeDecodeRoundTrip := fun _ _ => encode_of_decodeWord

end Machine
end Sys2Proof
end

section
/-! The opcode table: the decoder takes each word to the row it lies in (30_encoding.md section 3), and the words in no
row are the illegal ones (section 4). -/

namespace Sys2Proof

/-! ### The fields that a row fixes -/

/-- A word in a row has the row's bits wherever the mask is all ones. -/
theorem extractLsb'_of_matchesRow {w v m : Word} {lo len : Nat} (hmask : m.extractLsb' lo len = BitVec.allOnes len)
    (h : matchesRow w (v, m) = true) : w.extractLsb' lo len = v.extractLsb' lo len := by
  have hv : w &&& m = v := eq_of_beq h
  rw [← hv, BitVec.extractLsb'_and, hmask, BitVec.and_allOnes]

theorem fieldFamily_of_matchesRow {w v m : Word} (hmask : m.extractLsb' 12 4 = BitVec.allOnes 4)
    (h : matchesRow w (v, m) = true) : fieldFamily w = fieldFamily v :=
  congrArg BitVec.toFin (extractLsb'_of_matchesRow hmask h)

theorem fieldN_of_matchesRow {w v m : Word} (hmask : m.extractLsb' 0 4 = BitVec.allOnes 4)
    (h : matchesRow w (v, m) = true) : fieldN w = fieldN v :=
  congrArg BitVec.toFin (extractLsb'_of_matchesRow hmask h)

theorem fieldKK_of_matchesRow {w v m : Word} (hmask : m.extractLsb' 0 8 = BitVec.allOnes 8)
    (h : matchesRow w (v, m) = true) : fieldKK w = fieldKK v :=
  extractLsb'_of_matchesRow hmask h

/-- A row whose mask is all ones holds its match alone. -/
theorem eq_of_matchesRow_allOnes {w v : Word} (h : matchesRow w (v, 0xFFFF#16) = true) : w = v := by
  have hv : w &&& BitVec.allOnes 16 = v := eq_of_beq h
  rwa [BitVec.and_allOnes] at hv

/-! ### A word in a row is the row's format filled with the word's own fields -/

theorem encodeA_of_matchesRow {w v : Word} {f : BitVec 4} (hf : fieldFamily v = f.toFin)
    (h : matchesRow w (v, 0xF000#16) = true) : encodeA f (fieldNNN w) = w :=
  encodeA_fields ((fieldFamily_of_matchesRow (by decide) h).trans hf)

theorem encodeXK_of_matchesRow {w v : Word} {f : BitVec 4} (hf : fieldFamily v = f.toFin)
    (h : matchesRow w (v, 0xF000#16) = true) : encodeXK f (fieldX w) (fieldKK w) = w :=
  encodeXK_fields ((fieldFamily_of_matchesRow (by decide) h).trans hf)

theorem encodeXYN_of_matchesRow {w v : Word} {f : BitVec 4} (hf : fieldFamily v = f.toFin)
    (h : matchesRow w (v, 0xF000#16) = true) :
    encodeXY f (fieldX w) (fieldY w) (BitVec.ofNat 4 (fieldN w).val) = w :=
  encodeXY_fields ((fieldFamily_of_matchesRow (by decide) h).trans hf) (toFin_ofNat_fieldN w).symm

theorem encodeXY_of_matchesRow {w v : Word} {f n : BitVec 4} (hf : fieldFamily v = f.toFin) (hn : fieldN v = n.toFin)
    (h : matchesRow w (v, 0xF00F#16) = true) : encodeXY f (fieldX w) (fieldY w) n = w :=
  encodeXY_fields ((fieldFamily_of_matchesRow (by decide) h).trans hf)
    ((fieldN_of_matchesRow (by decide) h).trans hn)

theorem encodeX_of_matchesRow {w v : Word} {f : BitVec 4} {sub : Byte} (hf : fieldFamily v = f.toFin)
    (hkk : fieldKK v = sub) (h : matchesRow w (v, 0xF0FF#16) = true) : encodeX f (fieldX w) sub = w :=
  encodeX_fields ((fieldFamily_of_matchesRow (by decide) h).trans hf)
    ((fieldKK_of_matchesRow (by decide) h).trans hkk)

/-! ### Rows and instructions -/

/-- The word of every instruction lies in the instruction's row, which stands in the table. -/
theorem encodesInRow (i : Instr) : Laws.EncodesInRow.Statement i := by
  cases i with
  | cls => exact Laws.EncodesInRow.cls
  | ret => exact Laws.EncodesInRow.ret
  | jp nnn => exact Laws.EncodesInRow.jp nnn
  | call nnn => exact Laws.EncodesInRow.call nnn
  | seByte x kk => exact Laws.EncodesInRow.seByte x kk
  | sneByte x kk => exact Laws.EncodesInRow.sneByte x kk
  | seReg x y => exact Laws.EncodesInRow.seReg x y
  | sneReg x y => exact Laws.EncodesInRow.sneReg x y
  | ldByte x kk => exact Laws.EncodesInRow.ldByte x kk
  | addByte x kk => exact Laws.EncodesInRow.addByte x kk
  | ldReg x y => exact Laws.EncodesInRow.ldReg x y
  | orReg x y => exact Laws.EncodesInRow.orReg x y
  | andReg x y => exact Laws.EncodesInRow.andReg x y
  | xorReg x y => exact Laws.EncodesInRow.xorReg x y
  | addReg x y => exact Laws.EncodesInRow.addReg x y
  | subReg x y => exact Laws.EncodesInRow.subReg x y
  | shr x y => exact Laws.EncodesInRow.shr x y
  | subnReg x y => exact Laws.EncodesInRow.subnReg x y
  | shl x y => exact Laws.EncodesInRow.shl x y
  | ldI nnn => exact Laws.EncodesInRow.ldI nnn
  | jpV0 nnn => exact Laws.EncodesInRow.jpV0 nnn
  | rnd x kk => exact Laws.EncodesInRow.rnd x kk
  | drw x y n => exact Laws.EncodesInRow.drw x y n
  | skp x => exact Laws.EncodesInRow.skp x
  | sknp x => exact Laws.EncodesInRow.sknp x
  | ldVxDt x => exact Laws.EncodesInRow.ldVxDt x
  | ldVxK x => exact Laws.EncodesInRow.ldVxK x
  | ldDtVx x => exact Laws.EncodesInRow.ldDtVx x
  | ldStVx x => exact Laws.EncodesInRow.ldStVx x
  | addI x => exact Laws.EncodesInRow.addI x
  | ldF x => exact Laws.EncodesInRow.ldF x
  | bcd x => exact Laws.EncodesInRow.bcd x
  | storeRegs x => exact Laws.EncodesInRow.storeRegs x
  | loadRegs x => exact Laws.EncodesInRow.loadRegs x

/-- One instruction of each row, in the table's order. -/
def rowInstrs : List Instr :=
  [.cls, .ret, .jp 0, .call 0, .seByte 0 0, .sneByte 0 0, .seReg 0 0, .sneReg 0 0, .ldByte 0 0, .addByte 0 0,
   .ldReg 0 0, .orReg 0 0, .andReg 0 0, .xorReg 0 0, .addReg 0 0, .subReg 0 0, .shr 0 0, .subnReg 0 0, .shl 0 0,
   .ldI 0, .jpV0 0, .rnd 0 0, .drw 0 0 0, .skp 0, .sknp 0, .ldVxDt 0, .ldVxK 0, .ldDtVx 0, .ldStVx 0, .addI 0,
   .ldF 0, .bcd 0, .storeRegs 0, .loadRegs 0]

theorem map_tableRow_rowInstrs : rowInstrs.map tableRow = opcodeRows := rfl

theorem exists_tableRow_eq {row : Word × Word} (h : row ∈ opcodeRows) : ∃ i, tableRow i = row := by
  rw [← map_tableRow_rowInstrs] at h
  obtain ⟨i, -, hi⟩ := List.mem_map.mp h
  exact ⟨i, hi⟩

/-- A word in a row is the word of the row's instruction with the word's own fields as operands. -/
theorem exists_encode_of_matchesRow {w : Word} {i : Instr} (h : matchesRow w (tableRow i) = true) :
    ∃ j : Instr, j.wellFormed = true ∧ encode j = w ∧ tableRow j = tableRow i := by
  cases i with
  | cls => exact ⟨.cls, rfl, (eq_of_matchesRow_allOnes h).symm, rfl⟩
  | ret => exact ⟨.ret, rfl, (eq_of_matchesRow_allOnes h).symm, rfl⟩
  | jp => exact ⟨.jp _, rfl, encodeA_of_matchesRow rfl h, rfl⟩
  | call => exact ⟨.call _, rfl, encodeA_of_matchesRow rfl h, rfl⟩
  | ldI => exact ⟨.ldI _, rfl, encodeA_of_matchesRow rfl h, rfl⟩
  | jpV0 => exact ⟨.jpV0 _, rfl, encodeA_of_matchesRow rfl h, rfl⟩
  | seByte => exact ⟨.seByte _ _, rfl, encodeXK_of_matchesRow rfl h, rfl⟩
  | sneByte => exact ⟨.sneByte _ _, rfl, encodeXK_of_matchesRow rfl h, rfl⟩
  | ldByte => exact ⟨.ldByte _ _, rfl, encodeXK_of_matchesRow rfl h, rfl⟩
  | addByte => exact ⟨.addByte _ _, rfl, encodeXK_of_matchesRow rfl h, rfl⟩
  | rnd => exact ⟨.rnd _ _, rfl, encodeXK_of_matchesRow rfl h, rfl⟩
  | seReg => exact ⟨.seReg _ _, rfl, encodeXY_of_matchesRow rfl rfl h, rfl⟩
  | sneReg => exact ⟨.sneReg _ _, rfl, encodeXY_of_matchesRow rfl rfl h, rfl⟩
  | ldReg => exact ⟨.ldReg _ _, rfl, encodeXY_of_matchesRow rfl rfl h, rfl⟩
  | orReg => exact ⟨.orReg _ _, rfl, encodeXY_of_matchesRow rfl rfl h, rfl⟩
  | andReg => exact ⟨.andReg _ _, rfl, encodeXY_of_matchesRow rfl rfl h, rfl⟩
  | xorReg => exact ⟨.xorReg _ _, rfl, encodeXY_of_matchesRow rfl rfl h, rfl⟩
  | addReg => exact ⟨.addReg _ _, rfl, encodeXY_of_matchesRow rfl rfl h, rfl⟩
  | subReg => exact ⟨.subReg _ _, rfl, encodeXY_of_matchesRow rfl rfl h, rfl⟩
  | shr => exact ⟨.shr _ _, rfl, encodeXY_of_matchesRow rfl rfl h, rfl⟩
  | subnReg => exact ⟨.subnReg _ _, rfl, encodeXY_of_matchesRow rfl rfl h, rfl⟩
  | shl => exact ⟨.shl _ _, rfl, encodeXY_of_matchesRow rfl rfl h, rfl⟩
  | drw =>
    exact ⟨.drw _ _ _, wellFormed_drw_fieldN _ _ w, encodeXYN_of_matchesRow rfl h, rfl⟩
  | skp => exact ⟨.skp _, rfl, encodeX_of_matchesRow rfl rfl h, rfl⟩
  | sknp => exact ⟨.sknp _, rfl, encodeX_of_matchesRow rfl rfl h, rfl⟩
  | ldVxDt => exact ⟨.ldVxDt _, rfl, encodeX_of_matchesRow rfl rfl h, rfl⟩
  | ldVxK => exact ⟨.ldVxK _, rfl, encodeX_of_matchesRow rfl rfl h, rfl⟩
  | ldDtVx => exact ⟨.ldDtVx _, rfl, encodeX_of_matchesRow rfl rfl h, rfl⟩
  | ldStVx => exact ⟨.ldStVx _, rfl, encodeX_of_matchesRow rfl rfl h, rfl⟩
  | addI => exact ⟨.addI _, rfl, encodeX_of_matchesRow rfl rfl h, rfl⟩
  | ldF => exact ⟨.ldF _, rfl, encodeX_of_matchesRow rfl rfl h, rfl⟩
  | bcd => exact ⟨.bcd _, rfl, encodeX_of_matchesRow rfl rfl h, rfl⟩
  | storeRegs => exact ⟨.storeRegs _, rfl, encodeX_of_matchesRow rfl rfl h, rfl⟩
  | loadRegs => exact ⟨.loadRegs _, rfl, encodeX_of_matchesRow rfl rfl h, rfl⟩

/-- A word in a row decodes to the row's instruction. -/
theorem decodeWord_of_matchesRow {w : Word} {row : Word × Word} (hrow : row ∈ opcodeRows)
    (h : matchesRow w row = true) : ∃ i, decodeWord w = .ok i ∧ tableRow i = row := by
  obtain ⟨i, rfl⟩ := exists_tableRow_eq hrow
  obtain ⟨j, hwf, rfl, hj⟩ := exists_encode_of_matchesRow h
  exact ⟨j, decodeWord_encode hwf, hj⟩

/-! ### The fields as numbers -/

theorem fieldFamily_val (w : Word) : (fieldFamily w).val = w.toNat / 4096 := by
  show (w.extractLsb' 12 4).toNat = w.toNat / 4096
  rw [BitVec.extractLsb'_toNat, Nat.shiftRight_eq_div_pow]
  omega

theorem fieldN_val (w : Word) : (fieldN w).val = w.toNat % 16 := by
  show (w.extractLsb' 0 4).toNat = w.toNat % 16
  rw [BitVec.extractLsb'_toNat, Nat.shiftRight_zero]

theorem fieldKK_toNat (w : Word) : (fieldKK w).toNat = w.toNat % 256 := by
  rw [fieldKK, BitVec.extractLsb'_toNat, Nat.shiftRight_zero]

/-! ### The illegal words of each family (section 4) -/

theorem decodeFamily8_error_iff (w : Word) : decodeFamily8 w = .error (.illegalWord w) ↔
    w.toNat % 16 ∈ [0x8, 0x9, 0xA, 0xB, 0xC, 0xD, 0xF] := by
  rw [← fieldN_val, decodeFamily8]
  generalize fieldN w = n
  fin_cases n <;> simp

theorem decodeFamilyE_error_iff (w : Word) : decodeFamilyE w = .error (.illegalWord w) ↔
    w.toNat % 256 ∉ [0x9E, 0xA1] := by
  rw [← fieldKK_toNat, decodeFamilyE]
  split
  case h_1 hkk => simp [hkk]
  case h_2 hkk => simp [hkk]
  case h_3 h1 h2 => simpa [← BitVec.toNat_inj] using And.intro h1 h2

theorem decodeFamilyF_error_iff (w : Word) : decodeFamilyF w = .error (.illegalWord w) ↔
    w.toNat % 256 ∉ [0x07, 0x0A, 0x15, 0x18, 0x1E, 0x29, 0x33, 0x55, 0x65] := by
  rw [← fieldKK_toNat, decodeFamilyF]
  split
  case h_10 => simp_all [← BitVec.toNat_inj]
  all_goals simp [*]

/-! ### The obligations -/

namespace Machine

/-- Settles O3: the word of an instruction lies in its row (O2 turns the word that decodes into one), a word in a row
is the word of one of the row's instructions, and a word decodes to one instruction only. -/
theorem decoderAgreesWithOpcodeTable : Obligations.DecoderAgreesWithOpcodeTable := by
  refine ⟨fun w i h => ?_, fun w row hrow h => decodeWord_of_matchesRow hrow h,
    fun w r₁ r₂ hr₁ hr₂ h₁ h₂ => ?_⟩
  · obtain ⟨rfl, -⟩ := encode_of_decodeWord h
    obtain ⟨hmatch, hmem⟩ := encodesInRow i
    exact ⟨hmem, hmatch⟩
  · obtain ⟨i, hi, rfl⟩ := decodeWord_of_matchesRow hr₁ h₁
    obtain ⟨j, hj, rfl⟩ := decodeWord_of_matchesRow hr₂ h₂
    cases hi.symm.trans hj
    rfl

/-- Settles O4: a case split over the decoder's arms; families 0, 5 and 9 refuse by their own condition, families 8, E
and F by their own tables, and every other family decodes every word. -/
theorem illegalWordsByFamily : Obligations.IllegalWordsByFamily := by
  intro w
  rw [← decodeFamily8_error_iff, ← decodeFamilyE_error_iff, ← decodeFamilyF_error_iff, ← fieldFamily_val,
    ← fieldN_val]
  unfold decodeWord
  split
  case h_1 hf =>
    have hcls : w = 0x00E0#16 ↔ w.toNat = 0x00E0 := BitVec.toNat_inj.symm
    have hret : w = 0x00EE#16 ↔ w.toNat = 0x00EE := BitVec.toNat_inj.symm
    simp only [hcls, hret]
    split_ifs <;> simp [*]
  case h_6 hf | h_10 hf => simp [hf]
  case h_16 =>
    have hf : fieldFamily w = 0xF := by grind
    simp [hf]
  all_goals simp [*]

/-- Settles O5: six of the words are encodings, and the last is of family 5 with nibble 1. -/
theorem sampleWordsDecode : Obligations.SampleWordsDecode :=
  ⟨decodeWord_encode (i := .cls) rfl, decodeWord_encode (i := .drw 1 2 5) rfl, decodeWord_encode (i := .call 0x300) rfl,
    decodeWord_encode (i := .addReg 0 1) rfl, decodeWord_encode (i := .storeRegs 2) rfl,
    decodeWord_encode (i := .skp 5) rfl, (illegalWordsByFamily 0x5121#16).mpr (by decide)⟩

end Machine
end Sys2Proof
end

section
/-! The invariant: memory stays canonical, the font keeps its bytes and the fault record fits the phase, from reset on
and across every step (10_state.md section 10, 60_exceptions.md section 1). -/

namespace Sys2Proof.Machine

/-! ### The phases that admit a transaction (R92) -/

theorem phase_of_admitted_load {bytes : List Byte} {p : Phase} (h : admitted (.load bytes) p = true) : p = .empty := by
  cases p with
  | empty => rfl
  | ready | halted => cases h

theorem phase_of_admitted_cycle {r : Option Byte} {p : Phase} (h : admitted (.cycle r) p = true) : p = .ready := by
  cases p with
  | ready => rfl
  | empty | halted => cases h

/-! ### The font survives every store that its check lets through -/

/-- A font address is its own reduction. -/
theorem reduce_font (k : Fin 80) : reduce (0x050 + k.val) = 0x050 + k.val :=
  Nat.mod_eq_of_lt (show _ < 4096 by omega)

theorem inFont_font (k : Fin 80) : inFont (0x050 + k.val) = true := (inFont_iff _).mpr (by omega)

/-- What is stored outside the font leaves the font's bytes alone. -/
theorem fontIntact_of_storesOutsideFont {s t : State} (hwf : s.mem.wf s.params.fontRom = true) (hfont : FontIntact s)
    (hparams : t.params = s.params) (hstore : StoresOutsideFont s t) : FontIntact t := by
  intro k
  rw [State.memRead, hparams, ← hfont k, State.memRead]
  rcases hstore with hmem | ⟨base, xs, hnone, hmem⟩ <;> rw [hmem]
  refine Memory.read_writeBytes_other hwf fun j hj htarget => ?_
  have hout : inFont (reduce (base + j)) = false := firstFontTarget_none.mp hnone j hj
  rw [htarget, reduce_font, inFont_font] at hout
  cases hout

/-- No target of a load lies in the font: an image ends at 0xFFF at the latest. -/
theorem firstFontTarget_entry {n : Nat} (h : n ≤ Config.maxImage) : firstFontTarget Config.entry n = none := by
  refine firstFontTarget_none.mpr fun k hk => (inFont_eq_false_iff _).mpr ?_
  simp only [reduce_eq, Config.entry_eq, Config.maxImage_eq] at h ⊢
  omega

/-! ### The fault record fits the phase -/

/-- Outside `Halted` a state is coherent exactly when it holds no record. -/
theorem faultCoherent_iff_of_ne_halted {s : State} (h : s.phase ≠ .halted) : FaultCoherent s ↔ s.fault = none := by
  unfold FaultCoherent
  cases hphase : s.phase with
  | halted => exact absurd hphase h
  | empty => exact Iff.rfl
  | ready => exact Iff.rfl

/-- Fault entry in a cycle leaves the record that its phase asks for: PC is two past the recorded address. -/
theorem faultCoherent_enterFault {s : State} {c : Cause} (hcause : causeHalts c = true) (hredraw : s.redraw = false) :
    FaultCoherent (s.enterFault c) :=
  ⟨⟨c, s.insnAddr⟩, rfl, hcause, (BitVec.sub_add_cancel s.pc 2).symm, hredraw⟩

/-! ### The invariant at reset -/

theorem inv_restart (s : State) : s.restart.Inv := ⟨rfl, fontIntact_restart s, rfl⟩

/-! ### The invariant across a step -/

theorem inv_enterFault {s : State} {c : Cause} (h : s.Inv) (hcause : causeHalts c = true)
    (hredraw : s.redraw = false) : (s.enterFault c).Inv := by
  obtain ⟨hwf, hfont, -⟩ := h
  exact ⟨hwf, hfont, faultCoherent_enterFault hcause hredraw⟩

/-- What a cycle does before it executes is no concern of the invariant while the core runs. -/
theorem inv_beginCycle {s : State} (r : Option Byte) (hphase : s.phase = .ready) (h : s.Inv) :
    (s.beginCycle r).Inv := by
  obtain ⟨hwf, hfont, hcoh⟩ := h
  have hrun : s.phase ≠ .halted := by rw [hphase]; decide
  have hnone : s.fault = none := (faultCoherent_iff_of_ne_halted hrun).mp hcoh
  exact ⟨hwf, hfont, (faultCoherent_iff_of_ne_halted (s := s.beginCycle r) hrun).mpr hnone⟩

/-- An instruction of a running core keeps the invariant, whether it completes or faults. -/
theorem exec_keeps_inv {i : Instr} {s t : State} (hrun : s.phase ≠ .halted) (hredraw : s.redraw = false) (h : s.Inv)
    (he : exec i s = .next t) : t.Inv := by
  rcases exec_cases i s with ⟨c, hcause, hfault⟩ | ⟨u, hu, hsame, hstore⟩
  · cases hfault.symm.trans he
    exact inv_enterFault h hcause hredraw
  · cases hu.symm.trans he
    obtain ⟨hwf, hfont, hcoh⟩ := h
    have hrun' : t.phase ≠ .halted := hsame.phase ▸ hrun
    have hnone : t.fault = none := hsame.fault.trans ((faultCoherent_iff_of_ne_halted hrun).mp hcoh)
    exact ⟨exec_keeps_wf hwf he,
      fontIntact_of_storesOutsideFont hwf hfont hsame.params hstore,
      (faultCoherent_iff_of_ne_halted hrun').mpr hnone⟩

theorem runCycle_keeps_inv {r : Option Byte} {s t : State} (hphase : s.phase = .ready) (h : s.Inv)
    (hc : runCycle r s = .next t) : t.Inv := by
  have hbegin : (s.beginCycle r).Inv := inv_beginCycle r hphase h
  rcases runCycle_cases r s with ⟨i, -, hrun⟩ | ⟨e, -, hrun⟩
  · have hne : (s.beginCycle r).phase ≠ .halted := by rw [beginCycle_phase, hphase]; decide
    exact exec_keeps_inv hne rfl hbegin (hrun.symm.trans hc)
  · cases hrun.symm.trans hc
    exact inv_enterFault hbegin rfl rfl

/-- A load that is accepted stores outside the font and makes the core `Ready`; one that is rejected changes the
response alone. -/
theorem inv_doLoad {s : State} {bytes : List Byte} (hphase : s.phase = .empty) (h : s.Inv) :
    (s.doLoad bytes).Inv := by
  obtain ⟨hwf, hfont, hcoh⟩ := h
  rcases doLoad_cases s bytes with ⟨hlen, hload⟩ | ⟨-, hload⟩ <;> rw [hload]
  · have hrun : s.phase ≠ .halted := by rw [hphase]; decide
    have hnone : s.fault = none := (faultCoherent_iff_of_ne_halted hrun).mp hcoh
    have hstore : StoresOutsideFont s
        { s with mem := s.mem.writeBytes s.params.fontRom Config.entry bytes, phase := .ready, response := .ok } :=
      .inr ⟨Config.entry, bytes, firstFontTarget_entry hlen, rfl⟩
    exact ⟨Memory.writeBytes_wf hwf, fontIntact_of_storesOutsideFont hwf hfont rfl hstore, hnone⟩
  · exact ⟨hwf, hfont, hcoh⟩

theorem transact_keeps_inv {x : Transaction} {s t : State} (h : s.Inv) (ht : transact x s = .next t) : t.Inv := by
  obtain ⟨hadm, hperf⟩ := transact_next ht
  cases x with
  | reset => cases hperf; exact inv_restart s
  | load bytes =>
    cases hperf
    exact inv_doLoad (phase_of_admitted_load hadm) h
  | cycle r => exact runCycle_keeps_inv (phase_of_admitted_cycle hadm) h hperf
  | tick | setKeys | observe => cases hperf; exact h

/-! ### The parameters -/

theorem exec_keeps_params {i : Instr} {s t : State} (h : exec i s = .next t) : t.params = s.params := by
  rcases exec_cases i s with ⟨c, -, he⟩ | ⟨u, he, hsame, -⟩ <;> cases he.symm.trans h
  · exact enterFault_params s c
  · exact hsame.params

theorem transact_keeps_params {x : Transaction} {s t : State} (h : transact x s = .next t) :
    t.params = s.params := by
  obtain ⟨-, hperf⟩ := transact_next h
  cases x with
  | load bytes =>
    cases hperf
    rcases doLoad_cases s bytes with ⟨-, hload⟩ | ⟨-, hload⟩ <;> rw [hload]
  | cycle r =>
    rcases runCycle_cases r s with ⟨i, -, hrun⟩ | ⟨e, -, hrun⟩
    · exact (exec_keeps_params (hrun.symm.trans hperf)).trans (beginCycle_params s r)
    · cases hrun.symm.trans hperf
      rfl
  | reset | tick | setKeys | observe => cases hperf; rfl

/-! ### The obligations -/

/-- Settles O56: a step is one transaction; `Reset` establishes the invariant, an accepted load stores outside the font,
and a cycle of a running core ends in an instruction that completes outside the font or in fault entry. -/
theorem stepKeepsInvariant : Obligations.StepKeepsInvariant := by
  intro s t h hstep
  rcases step_cases s with ⟨-, hs⟩ | ⟨x, rest, -, hs⟩
  · exact transact_keeps_inv h (hs.symm.trans hstep)
  · exact transact_keeps_inv (s := s.withInputs rest) h (hs.symm.trans hstep)

/-- Settles O54: the state at reset is what `Reset` leaves, for every value of the parameters. -/
theorem invariantHoldsAtReset : Obligations.InvariantHoldsAtReset :=
  ⟨inv_restart State.reset, fun p => inv_restart { State.reset with params := p }⟩

/-- Settles O55: a step is one transaction, and each of them keeps the parameters. -/
theorem parametersNeverChange : Obligations.ParametersNeverChange := by
  intro s t hstep
  rcases step_cases s with ⟨-, hs⟩ | ⟨x, rest, -, hs⟩
  · exact transact_keeps_params (hs.symm.trans hstep)
  · exact transact_keeps_params (s := s.withInputs rest) (hs.symm.trans hstep)

end Sys2Proof.Machine
end

section
/-! The transactions: which phase admits which, what each answers, and how a cycle runs
(40_cycle.md, 60_exceptions.md section 1). -/

namespace Sys2Proof.Machine

/-! ### Every admitted transaction answers -/

/-- Every instruction answers a next state, fault entry being one. -/
theorem exists_exec_next (i : Instr) (s : State) : ∃ t, exec i s = .next t := by
  rcases exec_cases i s with ⟨c, -, h⟩ | ⟨t, h, -, -⟩
  · exact ⟨s.enterFault c, h⟩
  · exact ⟨t, h⟩

theorem exists_runCycle_next (r : Option Byte) (s : State) : ∃ t, runCycle r s = .next t := by
  rcases runCycle_cases r s with ⟨i, -, h⟩ | ⟨e, -, h⟩
  · obtain ⟨t, ht⟩ := exists_exec_next i (s.beginCycle r)
    exact ⟨t, h.trans ht⟩
  · exact ⟨_, h⟩

theorem exists_transact_next {x : Transaction} {s : State} (h : admitted x s.phase = true) :
    ∃ t, transact x s = .next t := by
  rw [transact_admitted h]
  cases x with
  | cycle r => exact exists_runCycle_next r s
  | reset | load | tick | setKeys | observe => exact ⟨_, rfl⟩

/-! ### The transactions a phase does not admit -/

/-- A transaction that the phase does not admit stops by the phase's name for it. -/
theorem transact_notAdmitted {x : Transaction} {s : State} (h : admitted x s.phase = false) :
    transact x s = notAdmitted s.phase := by
  simp [transact, h]

/-- A halted core admits `Reset` and `Observe` alone. -/
theorem transact_halted {x : Transaction} {s : State} (hphase : s.phase = .halted) (hreset : x ≠ .reset)
    (hobserve : x ≠ .observe) : transact x s = .fault .haltedCore := by
  have hadm : admitted x s.phase = false := by
    rw [hphase]
    cases x with
    | reset => exact absurd rfl hreset
    | observe => exact absurd rfl hobserve
    | load | cycle | tick | setKeys => rfl
  rw [transact_notAdmitted hadm, hphase]
  rfl

theorem transact_cycle_empty {s : State} (r : Option Byte) (hphase : s.phase = .empty) :
    transact (.cycle r) s = .refused .noMove := by
  rw [transact_notAdmitted (by rw [hphase]; rfl), hphase]
  rfl

theorem transact_load_ready {s : State} (bytes : List Byte) (hphase : s.phase = .ready) :
    transact (.load bytes) s = .refused .noMove := by
  rw [transact_notAdmitted (by rw [hphase]; rfl), hphase]
  rfl

/-! ### Load -/

theorem transact_load_empty {s : State} (bytes : List Byte) (hphase : s.phase = .empty) :
    transact (.load bytes) s = .next (s.doLoad bytes) :=
  transact_admitted (by rw [hphase]; rfl)

/-- A load of more than 3584 bytes changes the response alone (R207). -/
theorem doLoad_oversized {s : State} {bytes : List Byte} (h : Config.maxImage < bytes.length) :
    s.doLoad bytes = { s with response := .rejected (.loadTooLarge bytes.length) } :=
  if_neg (by omega)

/-! ### The cycle -/

theorem transact_cycle_ready {s : State} (r : Option Byte) (hphase : s.phase = .ready) :
    transact (.cycle r) s = runCycle r s :=
  transact_admitted (by rw [hphase]; rfl)

/-- With nothing pending a ready core runs a cycle whose byte is free. -/
theorem step_ready_no_inputs {s : State} (hphase : s.phase = .ready) (hin : s.inputs = []) :
    step s = runCycle none s := by
  rw [step, hin]
  exact transact_cycle_ready none hphase

theorem step_ready_cycle {s : State} {r : Option Byte} {rest : List Transaction} (hphase : s.phase = .ready)
    (hin : s.inputs = .cycle r :: rest) : step s = runCycle r (s.withInputs rest) := by
  rw [step, hin]
  exact transact_cycle_ready r hphase

theorem runCycle_ok {s : State} {i : Instr} (r : Option Byte) (h : decodeWord s.fetchWord = .ok i) :
    runCycle r s = exec i (s.beginCycle r) := by
  rw [runCycle, h]

theorem runCycle_error {s : State} {e : DecodeError} (r : Option Byte) (h : decodeWord s.fetchWord = .error e) :
    runCycle r s = .next ((s.beginCycle r).enterFault (.decodeFailure s.fetchWord)) := by
  rw [runCycle, h]
  rfl

/-- A cycle that cannot decode halts with the word and the address it was fetched from. -/
theorem fault_of_runCycle_error (s : State) (r : Option Byte) :
    ((s.beginCycle r).enterFault (.decodeFailure s.fetchWord)).fault = some ⟨.decodeFailure s.fetchWord, s.pc⟩ := by
  rw [enterFault_fault, insnAddr_beginCycle]

/-! ### The obligations -/

/-- Settles O45: an instruction completes or enters a fault, and either is a next state. -/
theorem everyTransactionAnswers : Obligations.EveryTransactionAnswers :=
  ⟨exists_exec_next, fun _ _ => exists_transact_next⟩

/-- Settles O9: what a phase admits answers a next state, and each other transaction stops by name. -/
theorem phasesAdmitTransactions : Obligations.PhasesAdmitTransactions := by
  intro s
  refine ⟨?always, fun hphase => ⟨fun r => transact_cycle_empty r hphase, ?_, ?_, ?_⟩,
    fun hphase => ⟨fun b => transact_load_ready b hphase, ?_, ?_, ?_⟩, fun hphase _ => transact_halted hphase⟩
  case always =>
    rintro x (rfl | rfl)
    · exact ⟨_, transact_reset s⟩
    · exact ⟨_, transact_observe s⟩
  · exact fun b => ⟨_, transact_load_empty b hphase⟩
  · exact ⟨_, transact_tick (.inl hphase)⟩
  · exact fun k => ⟨_, transact_setKeys k (.inl hphase)⟩
  · intro r
    rw [transact_cycle_ready r hphase]
    exact exists_runCycle_next r s
  · exact ⟨_, transact_tick (.inr hphase)⟩
  · exact fun k => ⟨_, transact_setKeys k (.inr hphase)⟩

/-- Settles O15: `Empty` admits the load, whose length check fails before anything is written. -/
theorem oversizedLoadIsRejected : Obligations.OversizedLoadIsRejected := by
  intro s bytes hphase hlen
  exact ⟨(transact_load_empty bytes hphase).trans (congrArg _ (doLoad_oversized hlen)), rfl, rfl⟩

/-- Settles O17: `restart` takes these three fields from the state it resets. -/
theorem resetKeepsWhatIsNotTheCores : Obligations.ResetKeepsWhatIsNotTheCores := fun s =>
  ⟨s.restart, transact_reset s, restart_inputs s, restart_draws s, restart_params s⟩

/-- Settles O51: the pending transaction is one of the two that a halted core admits, or the step is stuck. -/
theorem haltedStaysHalted : Obligations.HaltedStaysHalted := by
  intro s hphase
  rcases step_cases s with ⟨-, hs⟩ | ⟨x, rest, hin, hs⟩
  · exact .inr (.inr (hs.trans (transact_halted hphase nofun nofun)))
  · by_cases hreset : x = .reset
    · subst hreset
      exact .inl ⟨rest, hin, _, hs.trans (transact_reset _), rfl, rfl⟩
    by_cases hobserve : x = .observe
    · subst hobserve
      exact .inr (.inl ⟨rest, hin, _, hs.trans (transact_observe _)⟩)
    exact .inr (.inr (hs.trans (transact_halted hphase hreset hobserve)))

/-- Settles O6: a cycle whose word decodes is that instruction run after `beginCycle`. -/
theorem stepRunsDecodedInstruction : Obligations.StepRunsDecodedInstruction := by
  intro s i hphase hdec
  refine ⟨fun hin => ?_, fun r rest hin => ?_⟩
  · exact (step_ready_no_inputs hphase hin).trans (runCycle_ok none hdec)
  · exact (step_ready_cycle hphase hin).trans (runCycle_ok (s := s.withInputs rest) r hdec)

/-- Settles O7: a cycle whose word does not decode is fault entry after `beginCycle`. -/
theorem stepRaisesDecodeFailure : Obligations.StepRaisesDecodeFailure := by
  intro s e hphase hdec
  refine ⟨fun hin => ?_, fun r rest hin => ?_⟩
  · exact ⟨_, (step_ready_no_inputs hphase hin).trans (runCycle_error none hdec), rfl,
      fault_of_runCycle_error s none⟩
  · exact ⟨_, (step_ready_cycle hphase hin).trans (runCycle_error (s := s.withInputs rest) r hdec), rfl,
      fault_of_runCycle_error (s.withInputs rest) r⟩

end Sys2Proof.Machine
end

section
/-! Instructions with more than one outcome: an equation for each outcome of the stack, the key tests, the wait and the
checked stores, and what follows from them (42_control_flow.md, 45_keypad_timers.md, 60_exceptions.md). -/

namespace Sys2Proof.Machine

/-! ### The stack (R111, R113) -/

theorem exec_ret_empty {s : State} (h : s.sp.val = 0) : exec .ret s = .next (s.enterFault .stackUnderflow) :=
  dif_neg (by omega)

theorem exec_ret_pop {s : State} {j : Fin 16} (h : s.sp.val = j.val + 1) :
    exec .ret s = .next { s with sp := j.castSucc, pc := s.stack[j] } := by
  have hj : s.sp.val - 1 = j.val := by omega
  have hpos : 0 < s.sp.val := by omega
  simp only [exec, execRet, hpos, hj, dite_true]
  rfl

theorem exec_call_push {s : State} {nnn : Addr12} (h : s.sp.val < 16) :
    exec (.call nnn) s = .next { s with
      stack := s.stack.set s.sp.val s.pc h
      sp := ⟨s.sp.val + 1, Nat.succ_lt_succ h⟩
      pc := zextAddr nnn } :=
  dif_pos h

theorem exec_call_full {s : State} {nnn : Addr12} (h : s.sp.val = 16) :
    exec (.call nnn) s = .next (s.enterFault (.stackOverflow nnn)) :=
  dif_neg (by rw [h]; decide)

/-- The stack is empty, or some entry is on top. -/
theorem sp_empty_or_top (s : State) : s.sp.val = 0 ∨ ∃ j : Fin 16, s.sp.val = j.val + 1 := by
  have hlt := s.sp.isLt
  by_cases h : s.sp.val = 0
  · exact .inl h
  · exact .inr ⟨⟨s.sp.val - 1, by omega⟩, by simp only; omega⟩

/-- The stack has room, or it is full. -/
theorem sp_room_or_full (s : State) : s.sp.val < 16 ∨ s.sp.val = 16 := by
  have hlt := s.sp.isLt
  omega

/-! ### The key tests (R170 to R172) -/

theorem skipOnKey_key {x : RegIdx} {p : Bool} {s : State} {k : Fin 16} (h : (s.getV x).toNat = k.val) :
    skipOnKey x p s = .next (s.skipIf (s.keys[k] == p)) := by
  rcases skipOnKey_cases x p s with ⟨hgt, -⟩ | ⟨hlt, hskip⟩
  · omega
  · simp only [hskip, h]
    rfl

theorem skipOnKey_no_key {x : RegIdx} {p : Bool} {s : State} (h : 15 < (s.getV x).toNat) :
    skipOnKey x p s = .next (s.enterFault (.keyIndexOutOfRange (s.getV x))) := by
  rcases skipOnKey_cases x p s with ⟨-, hfault⟩ | ⟨hlt, -⟩
  · exact hfault
  · omega

/-- A byte names no key, or it names one. -/
theorem byte_no_key_or_key (b : Byte) : 15 < b.toNat ∨ ∃ k : Fin 16, b.toNat = k.val := by
  by_cases h : b.toNat < 16
  · exact .inr ⟨⟨b.toNat, h⟩, rfl⟩
  · exact .inl (by omega)

/-! ### The wait (R174) -/

theorem leastKey_eq_some {keys : Vector Bool 16} {k : Fin 16} (hk : keys[k] = true)
    (hleast : ∀ j : Fin 16, j < k → keys[j] = false) : leastKey keys = some k := by
  cases hfound : leastKey keys with
  | none => rw [leastKey_none.mp hfound k] at hk; cases hk
  | some j =>
    obtain ⟨hj, hbelow⟩ := leastKey_some hfound
    rcases lt_trichotomy j k with hlt | heq | hgt
    · rw [hleast j hlt] at hj; cases hj
    · rw [heq]
    · rw [hbelow k hgt] at hk; cases hk

theorem exec_ldVxK_pressed {x : RegIdx} {s : State} {k : Fin 16} (h : leastKey s.keys = some k) :
    exec (.ldVxK x) s = .next (s.setV x (keyByte k)) := by
  rw [exec, execLdVxK, h]

theorem exec_ldVxK_wait {x : RegIdx} {s : State} (h : leastKey s.keys = none) :
    exec (.ldVxK x) s = .next { s with pc := s.pc - 2 } := by
  rw [exec, execLdVxK, h]

theorem toNat_keyByte (k : Fin 16) : (keyByte k).toNat = k.val := Nat.mod_eq_of_lt (by omega)

/-! ### The checked stores (R153, R154) -/

theorem storeChecked_outside_font {base : Nat} {xs : List Byte} {s : State}
    (h : firstFontTarget base xs.length = none) : storeChecked base xs s = .next (s.storeBytes base xs) := by
  rw [storeChecked, h]

theorem storeChecked_font {base b : Nat} {xs : List Byte} {s : State}
    (h : firstFontTarget base xs.length = some b) :
    storeChecked base xs s = .next (s.enterFault (.fontWrite b)) := by
  rw [storeChecked, h]
  rfl

theorem exec_bcd_store {x : RegIdx} {s : State} (h : firstFontTarget s.i.toNat 3 = none) :
    exec (.bcd x) s = .next (s.storeBytes s.i.toNat (decimalDigits (s.getV x))) :=
  storeChecked_outside_font h

theorem exec_storeRegs_store {x : RegIdx} {s : State} (h : firstFontTarget s.i.toNat (x.val + 1) = none) :
    exec (.storeRegs x) s = .next (s.storeBytes s.i.toNat (s.regBlock x)) :=
  storeChecked_outside_font (by rwa [regBlock_length])

/-- The first target in the font is the one that is named. -/
theorem firstFontTarget_eq_some {base n k : Nat} (hk : k < n) (hfont : inFont (reduce (base + k)) = true)
    (hfirst : ∀ j, j < k → inFont (reduce (base + j)) = false) :
    firstFontTarget base n = some (reduce (base + k)) := by
  cases hfound : firstFontTarget base n with
  | none => rw [firstFontTarget_none.mp hfound k hk] at hfont; cases hfont
  | some b =>
    obtain ⟨hb, j, hj, rfl, hbefore⟩ := firstFontTarget_some hfound
    rcases lt_trichotomy j k with hlt | heq | hgt
    · rw [hfirst j hlt] at hb; cases hb
    · rw [heq]
    · rw [hbefore k hgt] at hfont; cases hfont

/-! ### The obligations -/

/-- Settles O24: CALL and RET at each end of the stack and between, by their equations. -/
theorem callPushesAndRetPops : Obligations.CallPushesAndRetPops := by
  intro s
  refine ⟨fun nnn h => ?push, fun nnn h => ⟨_, exec_call_full h, rfl⟩,
    fun j h => ⟨_, exec_ret_pop h, rfl, rfl, rfl⟩, fun h => ⟨_, exec_ret_empty h, rfl⟩⟩
  case push =>
    refine ⟨_, exec_call_push h, rfl, Vector.getElem_set_self h, toNat_zextAddr nnn, fun j hj => ?_, rfl⟩
    exact Vector.getElem_set_ne h j.isLt hj.symm

/-- Settles O25: the RET pops the entry that the CALL pushed, whatever PC has become. -/
theorem callThenRetReturns : Obligations.CallThenRetReturns := by
  intro nnn s t hroom hcall pc'
  cases (exec_call_push hroom).symm.trans hcall
  exact ⟨_, exec_ret_pop (j := ⟨s.sp.val, hroom⟩) rfl, Vector.getElem_set_self hroom, rfl⟩

/-- Settles O41: with a key named each test is a skip on that key's state, and otherwise both fault. -/
theorem keySkips : Obligations.KeySkips := by
  intro x s
  refine ⟨fun k hk => ⟨⟨_, skipOnKey_key hk, rfl, ?_⟩, ⟨_, skipOnKey_key hk, rfl, ?_⟩⟩,
    fun h => ⟨⟨_, skipOnKey_no_key h, rfl⟩, ⟨_, skipOnKey_no_key h, rfl⟩⟩⟩
  · rw [skipIf_pc, beq_true]
  · simp only [skipIf_pc, beq_iff_eq]

/-- Settles O42: the key the wait finds is the least pressed one. -/
theorem waitTakesLeastKey : Obligations.WaitTakesLeastKey := by
  intro x s
  refine ⟨fun k hk hleast => ?pressed, fun h => ⟨_, exec_ldVxK_wait (leastKey_none.mpr h), rfl, rfl⟩⟩
  case pressed =>
    refine ⟨_, exec_ldVxK_pressed (leastKey_eq_some hk hleast), ?_, onlyRegs_setV s x _⟩
    rw [getV_setV_same, toNat_keyByte]

/-- Settles O43: the wait takes back the 2 that the fetch added to PC. -/
theorem waitingCycleDoesNothing : Obligations.WaitingCycleDoesNothing := by
  intro x s hphase hin hdec hkeys
  have hwait : leastKey (s.beginCycle none).keys = none := leastKey_none.mpr hkeys
  have hpc : (s.beginCycle none).pc - 2 = s.pc := insnAddr_beginCycle s none
  rw [step_ready_no_inputs hphase hin, runCycle_ok none hdec, exec_ldVxK_wait hwait, hpc]
  rfl

/-- Settles O39: the check finds the first target in the font, for the three digits and for the block of registers. -/
theorem fontStoreFaults : Obligations.FontStoreFaults := by
  intro x s k hlow hhigh hfirst
  have hfont : inFont (reduce (s.i.toNat + k)) = true := (inFont_iff _).mpr ⟨hlow, hhigh⟩
  have hbefore : ∀ j, j < k → inFont (reduce (s.i.toNat + j)) = false := fun j hj =>
    (inFont_eq_false_iff _).mpr (hfirst j hj)
  refine ⟨fun hk => ?bcd, fun hk => ?storeRegs⟩
  case bcd => exact ⟨_, storeChecked_font (firstFontTarget_eq_some hk hfont hbefore), rfl⟩
  case storeRegs =>
    have hlen : k < (s.regBlock x).length := by rw [regBlock_length]; omega
    exact ⟨_, storeChecked_font (firstFontTarget_eq_some hlen hfont hbefore), rfl⟩

end Sys2Proof.Machine
end

section
/-! Memory as the instructions and the fetch see it: what a store leaves at each address, the fetched word, the load
(20_memory.md, 44_index_memory.md, 70_reset_and_hazards.md section 1). -/

namespace Sys2Proof.Machine

/-! ### Reads after a store -/

/-- Addresses that agree modulo 4096 are one address (R52). -/
theorem memRead_congr {s : State} {a b : Nat} (h : a % 4096 = b % 4096) : s.memRead a = s.memRead b :=
  congrArg (s.mem.read s.params.fontRom) h

theorem memRead_storeBytes_target {s : State} {base k : Nat} {xs : List Byte}
    (hwf : s.mem.wf s.params.fontRom = true) (hlen : xs.length ≤ 4096) (hk : k < xs.length) :
    (s.storeBytes base xs).memRead (base + k) = xs[k] :=
  Memory.read_writeBytes_target hwf hlen hk

theorem memRead_storeBytes_other {s : State} {base a : Nat} {xs : List Byte}
    (hwf : s.mem.wf s.params.fontRom = true) (h : ∀ k, k < xs.length → (base + k) % 4096 ≠ a % 4096) :
    (s.storeBytes base xs).memRead a = s.memRead a :=
  Memory.read_writeBytes_other hwf h

theorem onlyBytes_storeBytes {s : State} {base n : Nat} {xs : List Byte} (hwf : s.mem.wf s.params.fontRom = true)
    (hlen : xs.length = n) : OnlyBytes base n s (s.storeBytes base xs) :=
  ⟨rfl, fun _ h => memRead_storeBytes_other hwf (hlen ▸ h)⟩

/-! ### What the two storing instructions store -/

theorem decimalDigits_length (b : Byte) : (decimalDigits b).length = 3 := rfl

/-- Each decimal digit of a byte, most significant first (R153). -/
theorem toNat_decimalDigits (b : Byte) {k : Nat} (hk : k < (decimalDigits b).length) :
    (decimalDigits b)[k].toNat = b.toNat / 10 ^ (2 - k) % 10 := by
  have hb := b.isLt
  rw [decimalDigits_length] at hk
  interval_cases k <;> simp [decimalDigits]
  omega

theorem memRead_bcd {s : State} {x : RegIdx} (hwf : s.mem.wf s.params.fontRom = true) {k : Nat} (hk : k < 3) :
    ((s.storeBytes s.i.toNat (decimalDigits (s.getV x))).memRead (s.i.toNat + k)).toNat =
      (s.getV x).toNat / 10 ^ (2 - k) % 10 := by
  have hlen : (decimalDigits (s.getV x)).length ≤ 4096 := by rw [decimalDigits_length]; decide
  rw [memRead_storeBytes_target hwf hlen hk]
  exact toNat_decimalDigits _ hk

theorem memRead_storeRegs {s : State} {x k : RegIdx} (hwf : s.mem.wf s.params.fontRom = true) (hk : k ≤ x) :
    (s.storeBytes s.i.toNat (s.regBlock x)).memRead (s.i.toNat + k.val) = s.getV k := by
  have hlen := regBlock_length s x
  have hx := x.isLt
  have hk' : k.val < (s.regBlock x).length := by rw [hlen]; exact Nat.lt_succ_of_le hk
  rw [memRead_storeBytes_target hwf (by omega) hk', regBlock_getElem]

/-! ### The fetched word (R56, R57) -/

theorem toNat_wordOfBytes (hi lo : Byte) : (wordOfBytes hi lo).toNat = 256 * hi.toNat + lo.toNat := by
  rw [wordOfBytes, BitVec.toNat_append, ← Nat.shiftLeft_add_eq_or_of_lt lo.isLt, Nat.shiftLeft_eq]
  omega

theorem toNat_fetchWord (s : State) :
    s.fetchWord.toNat = 256 * (s.memRead s.pc.toNat).toNat + (s.memRead (s.pc.toNat + 1)).toNat :=
  toNat_wordOfBytes _ _

/-- The high half of the fetched word is the byte at PC. -/
theorem fetchWord_high {s : State} {a : Nat} (h : a % 4096 = s.pc.toNat % 4096) :
    s.fetchWord.toNat / 256 = (s.memRead a).toNat := by
  have hlo := (s.memRead (s.pc.toNat + 1)).isLt
  rw [toNat_fetchWord, memRead_congr h]
  omega

/-- The low half of the fetched word is the byte at PC + 1. -/
theorem fetchWord_low {s : State} {a : Nat} (h : a % 4096 = (s.pc.toNat + 1) % 4096) :
    s.fetchWord.toNat % 256 = (s.memRead a).toNat := by
  have hlo := (s.memRead (s.pc.toNat + 1)).isLt
  rw [toNat_fetchWord, memRead_congr h]
  omega

/-! ### The load (R231) -/

/-- A load that fits is a store at 0x200 that makes the core `Ready`. -/
theorem doLoad_fits {s : State} {bytes : List Byte} (h : bytes.length ≤ 3584) :
    s.doLoad bytes = { s.storeBytes 0x200 bytes with phase := .ready, response := .ok } :=
  if_pos h

/-- The image stands at 0x200 up. -/
theorem memRead_doLoad_image {s : State} {bytes : List Byte} (hwf : s.mem.wf s.params.fontRom = true)
    (hlen : bytes.length ≤ 3584) {j : Nat} (hj : j < bytes.length) :
    (s.doLoad bytes).memRead (0x200 + j) = bytes[j] := by
  rw [doLoad_fits hlen]
  exact memRead_storeBytes_target hwf (by omega) hj

theorem memRead_doLoad_other {s : State} {bytes : List Byte} (hwf : s.mem.wf s.params.fontRom = true)
    (hlen : bytes.length ≤ 3584) {a : Nat} (ha : a < 4096) (hout : a < 0x200 ∨ 0x200 + bytes.length ≤ a) :
    (s.doLoad bytes).memRead a = s.memRead a := by
  rw [doLoad_fits hlen]
  exact memRead_storeBytes_other hwf fun k hk => by omega

/-! ### The obligations -/

/-- Settles O8: the two bytes are appended, the one at PC as the high half. -/
theorem fetchIsBigEndian : Obligations.FetchIsBigEndian := toNat_fetchWord

/-- Settles O35: the store is `storeBytes` of the three digits, each read back at its target. -/
theorem bcdStoresDigits : Obligations.BcdStoresDigits := by
  intro x s hwf hnone
  have hb := (s.getV x).isLt
  refine ⟨_, exec_bcd_store hnone, onlyBytes_storeBytes hwf (decimalDigits_length _), ?hundreds,
    memRead_bcd hwf (k := 1) (by decide), ?ones⟩
  case hundreds =>
    have hread := memRead_bcd (x := x) hwf (k := 0) (by decide)
    rw [Nat.add_zero] at hread
    omega
  case ones =>
    have hread := memRead_bcd (x := x) hwf (k := 2) (by decide)
    rwa [Nat.sub_self, Nat.pow_zero, Nat.div_one] at hread

/-- Settles O36: the store is `storeBytes` of the block of registers, each read back at its target. -/
theorem storeRegsStoresBlock : Obligations.StoreRegsStoresBlock := fun x s hwf hnone =>
  ⟨_, exec_storeRegs_store hnone, onlyBytes_storeBytes hwf (regBlock_length s x), fun _ => memRead_storeRegs hwf⟩

/-- Settles O37: `loadBlock` reads the registers up to `V[x]` from memory and keeps the others. -/
theorem loadRegsLoadsBlock : Obligations.LoadRegsLoadsBlock := by
  refine fun x s => ⟨s.loadBlock x, rfl, rfl, fun k hk => ?_, fun k hk => ?_⟩
  · rw [getV_loadBlock, if_pos hk]
    rfl
  · rw [getV_loadBlock, if_neg (not_le.mpr hk)]

/-- Settles O38: the load reads at the I that the store left as it was, where the store is read back. -/
theorem storeThenLoadRestoresRegs : Obligations.StoreThenLoadRestoresRegs := by
  intro x s t clobbered hwf hnone hstore
  cases (exec_storeRegs_store hnone).symm.trans hstore
  refine ⟨_, rfl, fun k hk => ?_⟩
  rw [getV_loadBlock, if_pos hk]
  exact memRead_storeRegs hwf hk

/-- Settles O40: the two halves of the fetched word are the bytes at PC and PC + 1, and a stored byte is read back at
its target. -/
theorem storedByteIsFetched : Obligations.StoredByteIsFetched := by
  intro x s t hwf
  refine ⟨fun hnone hexec k hk => ?storeRegs, fun hnone hexec k hk => ?bcd⟩
  case storeRegs =>
    cases (exec_storeRegs_store hnone).symm.trans hexec
    have hread := memRead_storeRegs hwf hk
    exact ⟨fun h => by rw [fetchWord_high h, hread], fun h => by rw [fetchWord_low h, hread]⟩
  case bcd =>
    cases (exec_bcd_store hnone).symm.trans hexec
    have hread := memRead_bcd (x := x) hwf hk
    exact ⟨fun h => (fetchWord_high h).trans hread, fun h => (fetchWord_low h).trans hread⟩

/-- Settles O13: `Empty` admits the load, which is a store of the image at 0x200. -/
theorem loadCopiesImage : Obligations.LoadCopiesImage := by
  intro s bytes hwf hphase hlen
  refine ⟨_, transact_load_empty bytes hphase, ?_, ?_, fun j hj => memRead_doLoad_image hwf hlen hj,
    fun a ha hout => memRead_doLoad_other hwf hlen ha hout, ?_⟩ <;> rw [doLoad_fits hlen]
  rfl

/-- Settles O14: PC at reset is where the image stands; with no image the two bytes are the reset value 0. -/
theorem firstCycleFetchesImage : Obligations.FirstCycleFetchesImage := by
  refine ⟨fun b₀ b₁ rest hlen => ?image, ⟨_, transact_load_empty [] rfl, rfl, rfl⟩⟩
  case image =>
    have hpc : (State.reset.doLoad (b₀ :: b₁ :: rest)).pc.toNat = 0x200 := by rw [doLoad_fits hlen]; rfl
    have hfirst := memRead_doLoad_image reset_memory_wf hlen (j := 0) (by simp)
    have hsecond := memRead_doLoad_image reset_memory_wf hlen (j := 1) (by simp)
    refine ⟨_, transact_load_empty _ rfl, ?_⟩
    rw [toNat_fetchWord, hpc, hfirst, hsecond]
    rfl

end Sys2Proof.Machine
end

section
/-! Arithmetic, compares and the index register: each instruction's result as numbers or bits, and its frame
(42_control_flow.md, 43_alu.md, 44_index_memory.md). -/

namespace Sys2Proof

/-! ### The compares of registers with a nibble other than 0 (90_conflicts.md C3) -/

theorem toFin_ne_zero {n : BitVec 4} (h : n ≠ 0) : n.toFin ≠ 0 := fun hz => h (BitVec.eq_of_toFin_eq hz)

theorem decodeWord_encodeXY_family5 (x y : RegIdx) {n : BitVec 4} (h : n ≠ 0) :
    decodeWord (encodeXY 0x5#4 x y n) = .error (.illegalWord (encodeXY 0x5#4 x y n)) := by
  have hfamily : fieldFamily (encodeXY 0x5#4 x y n) = 0x5 := fieldFamily_encodeXY 0x5#4 n x y
  rw [decodeWord, hfamily]
  exact if_neg (by rw [fieldN_encodeXY]; exact toFin_ne_zero h)

theorem decodeWord_encodeXY_family9 (x y : RegIdx) {n : BitVec 4} (h : n ≠ 0) :
    decodeWord (encodeXY 0x9#4 x y n) = .error (.illegalWord (encodeXY 0x9#4 x y n)) := by
  have hfamily : fieldFamily (encodeXY 0x9#4 x y n) = 0x9 := fieldFamily_encodeXY 0x9#4 n x y
  rw [decodeWord, hfamily]
  exact if_neg (by rw [fieldN_encodeXY]; exact toFin_ne_zero h)

namespace Machine

/-! ### Results as numbers (R130, R137 to R141) -/

theorem carryFlag_eq (a b : Byte) : carryFlag a b = if 255 < a.toNat + b.toNat then 1 else 0 := by
  simp only [carryFlag, flagByte, decide_eq_true_eq]

theorem noBorrowFlag_eq (a b : Byte) : noBorrowFlag a b = if b.toNat ≤ a.toNat then 1 else 0 := by
  simp only [noBorrowFlag, flagByte, decide_eq_true_eq]

theorem toNat_lowBitFlag (a : Byte) : (lowBitFlag a).toNat = a.toNat % 2 := by
  rw [lowBitFlag, BitVec.toNat_and]
  exact Nat.and_one_is_mod a.toNat

theorem toNat_highBitFlag (a : Byte) : (highBitFlag a).toNat = a.toNat / 128 := by
  rw [highBitFlag, BitVec.toNat_ushiftRight, Nat.shiftRight_eq_div_pow]

/-- The difference of two bytes, modulo 256. -/
theorem toNat_byte_sub (a b : Byte) : (a - b).toNat = (a.toNat + 256 - b.toNat) % 256 := by
  bv_omega

theorem toNat_byte_shr (a : Byte) : (a >>> 1).toNat = a.toNat / 2 := by
  rw [BitVec.toNat_ushiftRight, Nat.shiftRight_eq_div_pow]

theorem toNat_byte_shl (a : Byte) : (a <<< 1).toNat = 2 * a.toNat % 256 := by
  rw [BitVec.toNat_shiftLeft, Nat.shiftLeft_eq, Nat.pow_one, Nat.mul_comm]

/-- `setResultFlag` changes the register it names and VF, and nothing else. -/
theorem onlyRegs_setResultFlag (s : State) (x : RegIdx) (r f : Byte) :
    OnlyRegs [x, 15] s (s.setResultFlag x r f) := by
  refine ⟨rfl, fun k hk => getV_setResultFlag_ne s r f (List.ne_of_not_mem_cons hk) ?_⟩
  exact List.ne_of_not_mem_cons (List.not_mem_of_not_mem_cons hk)

/-! ### Sums of 16 bits (R118, R151, R152) -/

theorem toNat_zextByte (b : Byte) : (zextByte b).toNat = b.toNat :=
  BitVec.toNat_setWidth_of_le (by decide)

/-- An address and a byte add up within 16 bits. -/
theorem toNat_zextAddr_add_zextByte (nnn : Addr12) (b : Byte) :
    (zextAddr nnn + zextByte b).toNat = nnn.toNat + b.toNat := by
  have hnnn := nnn.isLt
  have hb := b.isLt
  rw [BitVec.toNat_add, toNat_zextAddr, toNat_zextByte]
  omega

/-- No digit's glyph address wraps, not even that of 255. -/
theorem toNat_glyphAddr (b : Byte) : (glyphAddr b).toNat = b.toNat * 5 + 0x050 := by
  have hb := b.isLt
  have hglyph : (BitVec.ofNat 16 Config.glyphBytes).toNat = 5 := rfl
  have hbase : (BitVec.ofNat 16 Config.fontBase).toNat = 0x050 := rfl
  rw [glyphAddr, BitVec.toNat_add, BitVec.toNat_mul, toNat_zextByte, hglyph, hbase]
  omega

/-! ### The draw of a random byte (R142) -/

theorem afterDraw_of_some {s : State} {r : Byte} (h : s.cycleByte = some r) : s.afterDraw = s := by
  cases s
  cases h
  rfl

theorem afterDraw_of_none {s : State} (h : s.cycleByte = none) : s.afterDraw = { s with draws := s.draws + 1 } := by
  rw [State.afterDraw, h]

theorem drawByte_of_some {s : State} {r : Byte} (h : s.cycleByte = some r) : s.drawByte = r := by
  rw [State.drawByte, h]
  rfl

theorem drawByte_of_none {s : State} (h : s.cycleByte = none) : s.drawByte = Config.randomByte s.draws := by
  rw [State.drawByte, h]
  rfl

theorem exec_rnd (x : RegIdx) (kk : Byte) (s : State) :
    exec (.rnd x kk) s = .next (s.afterDraw.setV x (s.drawByte &&& kk)) := rfl

/-! ### The obligations -/

/-- Settles O29: `setResultFlag` with the sum and the carry; the flag is written last. -/
theorem addSetsCarry : Obligations.AddSetsCarry := by
  refine fun x y => ⟨decodeWord_encode (i := .addReg x y) rfl, fun s =>
    ⟨_, rfl, onlyRegs_setResultFlag s x _ _, fun hx => ?sum, ?carry⟩⟩
  case sum => rw [getV_setResultFlag_result s _ _ hx, BitVec.toNat_add]
  case carry => exact (getV_setResultFlag_vf s x _ _).trans (carryFlag_eq _ _)

/-- Settles O30: `setResultFlag` with the difference and the no-borrow flag, the operands in either order. -/
theorem subtractSetsNotBorrow : Obligations.SubtractSetsNotBorrow := by
  refine fun x y => ⟨decodeWord_encode (i := .subReg x y) rfl, decodeWord_encode (i := .subnReg x y) rfl, fun s =>
    ⟨⟨_, rfl, onlyRegs_setResultFlag s x _ _, fun hx => ?sub, ?subFlag⟩,
      ⟨_, rfl, onlyRegs_setResultFlag s x _ _, fun hx => ?subn, ?subnFlag⟩⟩⟩
  case sub => rw [getV_setResultFlag_result s _ _ hx, toNat_byte_sub]
  case subFlag => exact (getV_setResultFlag_vf s x _ _).trans (noBorrowFlag_eq _ _)
  case subn => rw [getV_setResultFlag_result s _ _ hx, toNat_byte_sub]
  case subnFlag => exact (getV_setResultFlag_vf s x _ _).trans (noBorrowFlag_eq _ _)

/-- Settles O31: `setResultFlag` with the shifted byte and the bit that the shift drops. -/
theorem shiftsMoveOneBit : Obligations.ShiftsMoveOneBit := by
  refine fun x y => ⟨decodeWord_encode (i := .shr x y) rfl, decodeWord_encode (i := .shl x y) rfl, fun s =>
    ⟨⟨_, rfl, onlyRegs_setResultFlag s x _ _, fun hx => ?shr, ?shrFlag⟩,
      ⟨_, rfl, onlyRegs_setResultFlag s x _ _, fun hx => ?shl, ?shlFlag⟩⟩⟩
  case shr => rw [getV_setResultFlag_result s _ _ hx, toNat_byte_shr]
  case shrFlag => exact (congrArg _ (getV_setResultFlag_vf s x _ _)).trans (toNat_lowBitFlag _)
  case shl => rw [getV_setResultFlag_result s _ _ hx, toNat_byte_shl]
  case shlFlag => exact (congrArg _ (getV_setResultFlag_vf s x _ _)).trans (toNat_highBitFlag _)

/-- Settles O28: each instruction is one `setV` of the library's bitwise operation. -/
theorem logicWorksBitByBit : Obligations.LogicWorksBitByBit := by
  intro x y s
  refine ⟨⟨_, rfl, onlyRegs_setV s x _, fun j _ => ?or⟩, ⟨_, rfl, onlyRegs_setV s x _, fun j _ => ?and⟩,
    ⟨_, rfl, onlyRegs_setV s x _, fun j _ => ?xor⟩⟩
  case or => rw [getV_setV_same, BitVec.getLsbD_or]
  case and => rw [getV_setV_same, BitVec.getLsbD_and]
  case xor => rw [getV_setV_same, BitVec.getLsbD_xor]

/-- Settles O32: the byte drawn is the host's or the free one, and the mask clears each bit that kk has clear. -/
theorem randomByteIsMasked : Obligations.RandomByteIsMasked := by
  intro x kk s
  refine ⟨fun r hr => ?given, fun hnone => ?free, ⟨_, exec_rnd x kk s, fun j _ hj => ?masked⟩⟩
  case given =>
    refine ⟨_, exec_rnd x kk s, ?_, ?_⟩ <;> rw [afterDraw_of_some hr, drawByte_of_some hr]
    · exact getV_setV_same s x _
    · exact onlyRegs_setV s x _
  case free =>
    refine ⟨_, exec_rnd x kk s, ?_, ?_⟩ <;> rw [afterDraw_of_none hnone, drawByte_of_none hnone]
    · exact getV_setV_same _ x _
    · exact onlyRegs_setV _ x _
  case masked => rw [getV_setV_same, BitVec.getLsbD_and, hj, Bool.and_false]

/-- Settles O34: both sums are of 16 bits, and the glyph's never wraps. -/
theorem indexAddAndGlyph : Obligations.IndexAddAndGlyph := by
  intro x s
  refine ⟨⟨_, rfl, ?_, rfl⟩, ⟨_, rfl, toNat_glyphAddr _, rfl⟩⟩
  exact (BitVec.toNat_add _ _).trans (by rw [toNat_zextByte])

/-- Settles O23: the greatest target and the greatest byte add up below 65536. -/
theorem indexedJumpAddsV0 : Obligations.IndexedJumpAddsV0 := fun nnn s =>
  ⟨_, rfl, toNat_zextAddr_add_zextByte nnn (s.getV 0), rfl⟩

/-- Settles O26: the words are the four encodings, a nibble other than 0 is illegal in families 5 and 9, and each
instruction is one skip on its condition. -/
theorem compareSkips : Obligations.CompareSkips := by
  intro x y kk
  refine ⟨decodeWord_encode (i := .seByte x kk) rfl, decodeWord_encode (i := .sneByte x kk) rfl,
    decodeWord_encode (i := .seReg x y) rfl, fun n hn => ⟨_, decodeWord_encodeXY_family5 x y hn⟩,
    decodeWord_encode (i := .sneReg x y) rfl, fun n hn => ⟨_, decodeWord_encodeXY_family9 x y hn⟩,
    fun s => ⟨⟨_, rfl, rfl, ?_⟩, ⟨_, rfl, rfl, ?_⟩, ⟨_, rfl, rfl, ?_⟩, ⟨_, rfl, rfl, ?_⟩⟩⟩
  all_goals simp only [skipIf_pc, beq_iff_eq, bne_iff_ne]

end Machine
end Sys2Proof
end

section
/-! The draw: a sprite inverts exactly the pixels under its 1 bits, the collision is one of them going off, and a second
draw undoes the first (41_display.md, section on `Dxyn` and on consequences). -/

namespace Sys2Proof.Machine

/-! ### Pixels by column and row (R30) -/

/-- The pixel in column `px`, row `py`. -/
def pixelAt (px py : Nat) (hx : px < 64) (hy : py < 32) : Fin 2048 := ⟨py * 64 + px, by omega⟩

/-- Every pixel has a column and a row. -/
theorem exists_pixelAt (p : Fin 2048) : ∃ px py, ∃ (hx : px < 64) (hy : py < 32), p = pixelAt px py hx hy := by
  have hp := p.isLt
  refine ⟨p.val % 64, p.val / 64, by omega, by omega, Fin.ext ?_⟩
  show p.val = p.val / 64 * 64 + p.val % 64
  omega

theorem pixelIndex_eq_pixelAt_iff {x y px py : Nat} (hx : px < 64) (hy : py < 32) :
    pixelIndex x y = pixelAt px py hx hy ↔ x % 64 = px ∧ y % 32 = py := by
  rw [Fin.ext_iff, pixelIndex_val]
  show y % 32 * 64 + x % 64 = py * 64 + px ↔ _
  omega

/-- The pixels of the model's list are those of R101. -/
theorem pixelAt_mem_spritePixels_iff {s : State} {x0 y0 n px py : Nat} (hx : px < 64) (hy : py < 32) :
    pixelAt px py hx hy ∈ s.spritePixels x0 y0 n ↔ SpriteLit s x0 y0 n px py := by
  simp only [mem_spritePixels, pixelIndex_eq_pixelAt_iff]
  exact Iff.rfl

/-! ### What a draw leaves (R101) -/

/-- Each pixel is inverted exactly where the sprite covers it. -/
theorem getLsbD_drawSprite {s : State} {x0 y0 n : Nat} (hn : n ≤ 32) (p : Fin 2048) :
    (s.drawSprite x0 y0 n).fb.getLsbD p.val = (s.fb.getLsbD p.val != decide (p ∈ s.spritePixels x0 y0 n)) :=
  (foldl_flipPixel _ (nodup_spritePixels s x0 y0 n hn) s.fb false).1 p

/-- A collision: a pixel that the sprite covers was on. -/
theorem collision_iff {s : State} {x0 y0 n : Nat} (hn : n ≤ 32) :
    (flipPixels s.fb (s.spritePixels x0 y0 n)).2 = true ↔
      ∃ px py, px < 64 ∧ py < 32 ∧ PixelOn s px py ∧ SpriteLit s x0 y0 n px py := by
  rw [flipPixels, (foldl_flipPixel _ (nodup_spritePixels s x0 y0 n hn) s.fb false).2, Bool.false_or, List.any_eq_true]
  constructor
  · rintro ⟨p, hmem, hon⟩
    obtain ⟨px, py, hx, hy, rfl⟩ := exists_pixelAt p
    exact ⟨px, py, hx, hy, hon, (pixelAt_mem_spritePixels_iff hx hy).mp hmem⟩
  · rintro ⟨px, py, hx, hy, hon, hlit⟩
    exact ⟨pixelAt px py hx hy, (pixelAt_mem_spritePixels_iff hx hy).mpr hlit, hon⟩

theorem pixelOn_drawSprite_iff {s : State} {x0 y0 n px py : Nat} (hn : n ≤ 32) (hx : px < 64) (hy : py < 32) :
    PixelOn (s.drawSprite x0 y0 n) px py ↔ (PixelOn s px py ↔ ¬ SpriteLit s x0 y0 n px py) := by
  rw [← pixelAt_mem_spritePixels_iff hx hy]
  unfold PixelOn
  rw [show py * 64 + px = (pixelAt px py hx hy).val from rfl, getLsbD_drawSprite hn]
  cases s.fb.getLsbD (pixelAt px py hx hy).val <;> simp

/-- A draw leaves every register but VF. -/
theorem getV_drawSprite_ne (s : State) {x0 y0 n : Nat} {k : RegIdx} (h : k ≠ 15) :
    (s.drawSprite x0 y0 n).getV k = s.getV k := by
  have hne : (vf : RegIdx).val ≠ k.val := fun e => h (Fin.ext e.symm)
  simp [State.getV, hne]

/-- The sprite is read from memory at I, which a draw leaves alone. -/
theorem spriteLit_drawSprite_iff {s : State} {x0 y0 n x1 y1 m px py : Nat} :
    SpriteLit (s.drawSprite x0 y0 n) x1 y1 m px py ↔ SpriteLit s x1 y1 m px py := Iff.rfl

theorem exec_drw (x y : RegIdx) (n : Nat) (s : State) :
    exec (.drw x y n) s = .next (s.drawSprite (s.getV x).toNat (s.getV y).toNat n) := rfl

/-! ### The second draw -/

/-- Drawing the sprite again at the same position restores every pixel. -/
theorem fb_drawSprite_twice {s : State} {x0 y0 n : Nat} (hn : n ≤ 32) :
    ((s.drawSprite x0 y0 n).drawSprite x0 y0 n).fb = s.fb := by
  refine BitVec.eq_of_getLsbD_eq fun p hp => ?_
  have hsame : (s.drawSprite x0 y0 n).spritePixels x0 y0 n = s.spritePixels x0 y0 n := rfl
  have hsecond := getLsbD_drawSprite (s := s.drawSprite x0 y0 n) (x0 := x0) (y0 := y0) hn ⟨p, hp⟩
  have hfirst := getLsbD_drawSprite (s := s) (x0 := x0) (y0 := y0) hn ⟨p, hp⟩
  rw [hsame, hfirst, Bool.bne_assoc, bne_self_eq_false, Bool.bne_false] at hsecond
  exact hsecond

/-- A covered pixel is on after the first draw exactly when it was off before. -/
theorem pixelOn_drawSprite_and_lit_iff {s : State} {x0 y0 n px py : Nat} (hn : n ≤ 32) (hx : px < 64)
    (hy : py < 32) : PixelOn (s.drawSprite x0 y0 n) px py ∧ SpriteLit s x0 y0 n px py ↔
      ¬ PixelOn s px py ∧ SpriteLit s x0 y0 n px py := by
  rw [pixelOn_drawSprite_iff hn hx hy]
  tauto

/-- The second draw collides exactly where the first turned a pixel on. -/
theorem collision_drawSprite_twice_iff {s : State} {x0 y0 n : Nat} (hn : n ≤ 32) :
    (flipPixels (s.drawSprite x0 y0 n).fb ((s.drawSprite x0 y0 n).spritePixels x0 y0 n)).2 = true ↔
      ∃ px py, px < 64 ∧ py < 32 ∧ ¬ PixelOn s px py ∧ SpriteLit s x0 y0 n px py := by
  rw [collision_iff hn]
  refine exists_congr fun px => exists_congr fun py => and_congr_right fun hx => and_congr_right fun hy => ?_
  exact pixelOn_drawSprite_and_lit_iff hn hx hy

/-- VF ends as 1 on a collision, and where it was 1 and DRW_CLEARS_VF is false. -/
theorem collisionFlag_eq_one_iff (clears collision : Bool) (old : Byte) :
    collisionFlag clears collision old = 1 ↔ collision = true ∨ (clears = false ∧ old = 1) := by
  cases collision <;> cases clears <;> simp

/-! ### The obligations -/

/-- Settles O19: the model's list of pixels has no pixel twice and holds exactly those of R101, so flipping them in turn
inverts each once; the flag is set by one that was on. -/
theorem drawXorsSprite : Obligations.DrawXorsSprite := by
  intro x y n s hn
  have hn' : n ≤ 32 := by omega
  refine ⟨_, exec_drw x y n s, fun px py hx hy => pixelOn_drawSprite_iff hn' hx hy, fun hcol => ?hit,
    fun hcol => ?miss, rfl, fun k hk => getV_drawSprite_ne s hk, rfl⟩
  case hit =>
    refine (getV_drawSprite_vf s _ _ n).trans ?_
    rw [(collision_iff hn').mpr hcol, collisionFlag_collision]
  case miss =>
    refine (getV_drawSprite_vf s _ _ n).trans ?_
    rw [eq_false_of_ne_true fun h => hcol ((collision_iff hn').mp h)]
    rfl

/-- Settles O20: the first draw leaves I, memory and the position, so the second flips the same pixels back, and
collides where the first turned one on. -/
theorem drawTwiceRestores : Obligations.DrawTwiceRestores := by
  intro x y n s t hn hexec hx hy
  have hn' : n ≤ 32 := by omega
  cases (exec_drw x y n s).symm.trans hexec
  refine ⟨_, exec_drw x y n _, ?_, ?_⟩ <;> rw [hx, hy]
  · exact fb_drawSprite_twice hn'
  · rw [← collision_drawSprite_twice_iff hn']
    exact (iff_of_eq (congrArg (· = 1) (getV_drawSprite_vf _ _ _ n))).trans (collisionFlag_eq_one_iff _ _ _)

end Sys2Proof.Machine
end

section
/-! What the instructions do not touch: the frame of each instruction with more than one outcome, and the statements
over all instructions that follow (10_state.md sections 2 to 7, 60_exceptions.md section 1). -/

namespace Sys2Proof.Machine

/-! ### Frames of the instructions with more than one outcome -/

/-- A checked store changes memory, or enters a fault. -/
theorem storeChecked_frame {base : Nat} {xs : List Byte} {s t : State} (h : storeChecked base xs s = .next t) :
    t = { s with mem := t.mem, phase := t.phase, fault := t.fault, response := t.response } := by
  rcases storeChecked_cases base xs s with ⟨b, -, hs⟩ | ⟨-, hs⟩ <;> cases hs.symm.trans h <;> rfl

/-- A key test changes PC, or enters a fault. -/
theorem skipOnKey_frame {x : RegIdx} {p : Bool} {s t : State} (h : skipOnKey x p s = .next t) :
    t = { s with pc := t.pc, phase := t.phase, fault := t.fault, response := t.response } := by
  rcases skipOnKey_cases x p s with ⟨-, hs⟩ | ⟨_, hs⟩ <;> cases hs.symm.trans h <;> rfl

/-- RET changes SP and PC and keeps the entries, or enters a fault. -/
theorem exec_ret_frame {s t : State} (h : exec .ret s = .next t) :
    t = { s with sp := t.sp, pc := t.pc, phase := t.phase, fault := t.fault, response := t.response } := by
  rcases sp_empty_or_top s with hsp | ⟨j, hsp⟩
  · cases (exec_ret_empty hsp).symm.trans h
    rfl
  · cases (exec_ret_pop hsp).symm.trans h
    rfl

/-- CALL changes the stack, SP and PC, or enters a fault. -/
theorem exec_call_frame {nnn : Addr12} {s t : State} (h : exec (.call nnn) s = .next t) :
    t = { s with
      stack := t.stack, sp := t.sp, pc := t.pc
      phase := t.phase, fault := t.fault, response := t.response } := by
  rcases sp_room_or_full s with hsp | hsp
  · cases (exec_call_push hsp).symm.trans h
    rfl
  · cases (exec_call_full hsp).symm.trans h
    rfl

/-- The wait ends with a key in `V[x]`, or takes PC back. -/
theorem exec_ldVxK_next {x : RegIdx} {s t : State} (h : exec (.ldVxK x) s = .next t) :
    (∃ k, leastKey s.keys = some k ∧ t = s.setV x (keyByte k)) ∨
      (leastKey s.keys = none ∧ t = { s with pc := s.pc - 2 }) := by
  cases hkey : leastKey s.keys with
  | some k =>
    cases (exec_ldVxK_pressed hkey).symm.trans h
    exact .inl ⟨k, rfl, rfl⟩
  | none =>
    cases (exec_ldVxK_wait hkey).symm.trans h
    exact .inr ⟨rfl, rfl⟩

/-- The wait changes `V[x]` and PC at most. -/
theorem exec_ldVxK_frame {x : RegIdx} {s t : State} (h : exec (.ldVxK x) s = .next t) :
    t = { s with v := t.v, pc := t.pc } := by
  rcases exec_ldVxK_next h with ⟨k, -, rfl⟩ | ⟨-, rfl⟩ <;> rfl

/-- The load of registers has one outcome, `loadBlock`. -/
theorem eq_of_exec_loadRegs {x : RegIdx} {s t : State} (h : exec (.loadRegs x) s = .next t) : t = s.loadBlock x :=
  (Host.Outcome.next.inj h).symm

/-! ### Which instructions can halt the core (R203 to R206) -/

/-- Every instruction but the six of `MayFault` keeps the phase. -/
theorem mayFault_or_keeps_phase {i : Instr} {s t : State} (h : exec i s = .next t) :
    MayFault i ∨ t.phase = s.phase := by
  cases i with
  | ret | call | bcd | storeRegs | skp | sknp => exact .inl (by simp [MayFault])
  | ldVxK x => exact .inr (by rw [exec_ldVxK_frame h])
  | loadRegs x => exact .inr (by rw [eq_of_exec_loadRegs h, loadBlock_phase])
  | cls | jp | seByte | sneByte | seReg | sneReg | ldByte | addByte | ldReg | orReg | andReg | xorReg | addReg
  | subReg | shr | subnReg | shl | ldI | jpV0 | rnd | drw | ldVxDt | ldDtVx | ldStVx | addI | ldF =>
    cases h
    exact .inr rfl

/-- An instruction that changes the phase is one of the six, and all it does is fault entry. -/
theorem exec_changes_phase {i : Instr} {s t : State} (h : exec i s = .next t) (hphase : t.phase ≠ s.phase) :
    MayFault i ∧ ∃ c, causeHalts c = true ∧ t = s.enterFault c := by
  refine ⟨(mayFault_or_keeps_phase h).resolve_right hphase, ?_⟩
  rcases exec_cases i s with ⟨c, hcause, he⟩ | ⟨u, he, hsame, -⟩
  · cases he.symm.trans h
    exact ⟨c, hcause, rfl⟩
  · cases he.symm.trans h
    exact absurd hsame.phase hphase

/-! ### Flags are 0 or 1 (R34) -/

theorem flagByte_zero_or_one (b : Bool) : flagByte b = 0 ∨ flagByte b = 1 := by
  cases b
  · exact .inl rfl
  · exact .inr rfl

theorem byte_zero_or_one {b : Byte} (h : b.toNat < 2) : b = 0 ∨ b = 1 := by
  bv_omega

theorem lowBitFlag_zero_or_one (a : Byte) : lowBitFlag a = 0 ∨ lowBitFlag a = 1 :=
  byte_zero_or_one (by rw [toNat_lowBitFlag]; omega)

theorem highBitFlag_zero_or_one (a : Byte) : highBitFlag a = 0 ∨ highBitFlag a = 1 :=
  byte_zero_or_one (by have ha := a.isLt; rw [toNat_highBitFlag]; omega)

/-- VF holds the flag that `setResultFlag` writes, whatever `x` is. -/
theorem vf_zero_or_one_setResultFlag (s : State) (x : RegIdx) (r : Byte) {f : Byte} (hf : f = 0 ∨ f = 1) :
    (s.setResultFlag x r f).getV 15 = 0 ∨ (s.setResultFlag x r f).getV 15 = 1 := by
  rwa [show (s.setResultFlag x r f).getV 15 = f from getV_setResultFlag_vf s x r f]

/-- A `setV` of another register keeps VF. -/
theorem vf_setV (s : State) {x : RegIdx} (b : Byte) (hx : x ≠ 15) : (s.setV x b).getV 15 = s.getV 15 :=
  getV_setV_ne s b hx.symm

/-- A load of registers below VF keeps VF. -/
theorem vf_loadBlock (s : State) {x : RegIdx} (hx : x ≠ 15) : (s.loadBlock x).getV 15 = s.getV 15 := by
  rw [getV_loadBlock, if_neg fun hle => hx (le_antisymm (Fin.le_last x) hle)]

/-! ### The obligations -/

/-- Settles O50: from a running core to a halted one the phase changes, and then all that happened is fault entry. -/
theorem faultsArePrecise : Obligations.FaultsArePrecise := by
  intro i s t h hrun hhalt
  obtain ⟨hmay, c, hcause, rfl⟩ := exec_changes_phase h (hhalt.trans_ne hrun.symm)
  exact ⟨⟨c, rfl, hcause⟩, hmay⟩

/-- Settles O47: every instruction but the two keeps the screen, and each of the two sets `redraw`. -/
theorem onlyDisplayTouchesScreen : Obligations.OnlyDisplayTouchesScreen := by
  intro i s t h
  cases i with
  | cls | drw => cases h; rfl
  | _ => exact exec_keeps_screen (by nofun) (by nofun) h

/-- Settles O48: five instructions end in `setResultFlag` with a flag of 0 or 1 and the draw in the collision flag; any
other writes one named register, a block of registers up to `V[x]`, or none. -/
theorem flagWriters : Obligations.FlagWriters := by
  intro i s t h
  cases i with
  | addReg x y | subReg x y | subnReg x y =>
    cases h
    exact vf_zero_or_one_setResultFlag s x _ (flagByte_zero_or_one _)
  | shr x y => cases h; exact vf_zero_or_one_setResultFlag s x _ (lowBitFlag_zero_or_one _)
  | shl x y => cases h; exact vf_zero_or_one_setResultFlag s x _ (highBitFlag_zero_or_one _)
  | drw x y n =>
    cases h
    simp only [show (15 : RegIdx) = vf from rfl, getV_drawSprite_vf]
    cases (flipPixels s.fb (s.spritePixels (s.getV x).toNat (s.getV y).toNat n)).2
    · exact .inr rfl
    · exact .inl rfl
  | ldByte x kk | addByte x kk | ldReg x y | orReg x y | andReg x y | xorReg x y | rnd x kk | ldVxDt x =>
    cases h
    exact vf_setV _ _
  | ldVxK x =>
    intro hx
    rcases exec_ldVxK_next h with ⟨k, -, rfl⟩ | ⟨-, rfl⟩
    · exact vf_setV s _ hx
    · rfl
  | loadRegs x => rw [eq_of_exec_loadRegs h]; exact vf_loadBlock s
  | ret => rw [exec_ret_frame h]
  | call nnn => rw [exec_call_frame h]
  | skp x | sknp x => rw [skipOnKey_frame h]
  | bcd x | storeRegs x => rw [storeChecked_frame h]
  | cls | jp | seByte | sneByte | seReg | sneReg | ldI | jpV0 | ldDtVx | ldStVx | addI | ldF => cases h; rfl

/-- Settles O49: by the frame of each instruction, which is the named writer of all that it changes among these. -/
theorem registerWriters : Obligations.RegisterWriters := by
  intro i s t h
  cases i with
  | ret =>
    rw [exec_ret_frame h]
    exact ⟨.inl rfl, .inr (.inl rfl), .inl rfl, .inl rfl, .inl rfl, .inl rfl, rfl, rfl, rfl⟩
  | call nnn =>
    rw [exec_call_frame h]
    exact ⟨.inl rfl, .inr (.inr ⟨nnn, rfl⟩), .inr ⟨nnn, rfl⟩, .inl rfl, .inl rfl, .inl rfl, rfl, rfl, rfl⟩
  | skp x | sknp x =>
    rw [skipOnKey_frame h]
    exact ⟨.inl rfl, .inl rfl, .inl rfl, .inl rfl, .inl rfl, .inl rfl, rfl, rfl, rfl⟩
  | bcd x =>
    rw [storeChecked_frame h]
    exact ⟨.inl rfl, .inl rfl, .inl rfl, .inl rfl, .inl rfl, .inr (.inl ⟨x, rfl⟩), rfl, rfl, rfl⟩
  | storeRegs x =>
    rw [storeChecked_frame h]
    exact ⟨.inl rfl, .inl rfl, .inl rfl, .inl rfl, .inl rfl, .inr (.inr ⟨x, rfl⟩), rfl, rfl, rfl⟩
  | ldVxK x =>
    rw [exec_ldVxK_frame h]
    exact ⟨.inl rfl, .inl rfl, .inl rfl, .inl rfl, .inl rfl, .inl rfl, rfl, rfl, rfl⟩
  | ldI nnn =>
    cases h
    exact ⟨.inr (.inl ⟨nnn, rfl⟩), .inl rfl, .inl rfl, .inl rfl, .inl rfl, .inl rfl, rfl, rfl, rfl⟩
  | addI x =>
    cases h
    exact ⟨.inr (.inr (.inl ⟨x, rfl⟩)), .inl rfl, .inl rfl, .inl rfl, .inl rfl, .inl rfl, rfl, rfl, rfl⟩
  | ldF x =>
    cases h
    exact ⟨.inr (.inr (.inr ⟨x, rfl⟩)), .inl rfl, .inl rfl, .inl rfl, .inl rfl, .inl rfl, rfl, rfl, rfl⟩
  | ldDtVx x =>
    cases h
    exact ⟨.inl rfl, .inl rfl, .inl rfl, .inr ⟨x, rfl⟩, .inl rfl, .inl rfl, rfl, rfl, rfl⟩
  | ldStVx x =>
    cases h
    exact ⟨.inl rfl, .inl rfl, .inl rfl, .inl rfl, .inr ⟨x, rfl⟩, .inl rfl, rfl, rfl, rfl⟩
  | loadRegs x =>
    rw [eq_of_exec_loadRegs h]
    exact ⟨.inl (loadBlock_i s x), .inl (loadBlock_sp s x), .inl (loadBlock_stack s x), .inl (loadBlock_dt s x),
      .inl (loadBlock_st s x), .inl (loadBlock_mem s x), loadBlock_keys s x, loadBlock_params s x,
      loadBlock_inputs s x⟩
  | cls | jp | seByte | sneByte | seReg | sneReg | ldByte | addByte | ldReg | orReg | andReg | xorReg | addReg
  | subReg | shr | subnReg | shl | jpV0 | rnd | drw | ldVxDt =>
    cases h
    exact ⟨.inl rfl, .inl rfl, .inl rfl, .inl rfl, .inl rfl, .inl rfl, rfl, rfl, rfl⟩

end Sys2Proof.Machine
end

section
/-! Where each instruction leaves PC (10_state.md section 2), and the fields that almost no instruction reads: ST, the
byte of the cycle and DRW_CLEARS_VF. -/

namespace Sys2Proof.Machine

/-! ### PC after the instructions with more than one outcome -/

theorem pc_of_call {nnn : Addr12} {s t : State} (h : exec (.call nnn) s = .next t) :
    if s.sp.val = 16 then t.pc = s.pc else t.pc.toNat = nnn.toNat := by
  rcases sp_room_or_full s with hsp | hsp
  · cases (exec_call_push hsp).symm.trans h
    rw [if_neg (Nat.ne_of_lt hsp)]
    exact toNat_zextAddr nnn
  · cases (exec_call_full hsp).symm.trans h
    rw [if_pos hsp]
    rfl

theorem pc_of_ret {s t : State} (h : exec .ret s = .next t) :
    (s.sp.val = 0 → t.pc = s.pc) ∧ ∀ j : Fin 16, s.sp.val = j.val + 1 → t.pc = s.stack[j] := by
  refine ⟨fun hsp => ?_, fun j hsp => ?_⟩
  · cases (exec_ret_empty hsp).symm.trans h
    rfl
  · cases (exec_ret_pop hsp).symm.trans h
    rfl

theorem pc_of_skipOnKey {x : RegIdx} {p : Bool} {s t : State} (h : skipOnKey x p s = .next t) :
    (15 < (s.getV x).toNat → t.pc = s.pc) ∧
      ∀ k : Fin 16, (s.getV x).toNat = k.val → t.pc = if s.keys[k] = p then s.pc + 2 else s.pc := by
  refine ⟨fun hgt => ?_, fun k hk => ?_⟩
  · cases (skipOnKey_no_key hgt).symm.trans h
    rfl
  · cases (skipOnKey_key hk).symm.trans h
    simp only [skipIf_pc, beq_iff_eq]

theorem pc_of_ldVxK {x : RegIdx} {s t : State} (h : exec (.ldVxK x) s = .next t) :
    ((∀ k : Fin 16, s.keys[k] = false) → t.pc = s.pc - 2) ∧ ((∃ k : Fin 16, s.keys[k] = true) → t.pc = s.pc) := by
  rcases exec_ldVxK_next h with ⟨k, hkey, rfl⟩ | ⟨hkey, rfl⟩
  · refine ⟨fun hnone => ?_, fun _ => rfl⟩
    rw [leastKey_none.mpr hnone] at hkey
    cases hkey
  · refine ⟨fun _ => rfl, fun ⟨k, hk⟩ => ?_⟩
    rw [leastKey_none.mp hkey k] at hk
    cases hk

/-- Settles O46: a change of phase is fault entry of one of the six, which leaves PC; and the equations of each
instruction say where it leaves PC otherwise. -/
theorem pcAfterEachInstruction : Obligations.PcAfterEachInstruction := by
  intro i s t h
  refine ⟨fun hphase => ?halts, ?pc⟩
  case halts =>
    obtain ⟨hmay, c, -, rfl⟩ := exec_changes_phase h hphase
    exact ⟨hmay, rfl, rfl⟩
  case pc =>
    cases i with
    | jp nnn => cases h; exact toNat_zextAddr nnn
    | jpV0 nnn => cases h; exact toNat_zextAddr_add_zextByte nnn (s.getV 0)
    | call nnn => exact pc_of_call h
    | ret => exact pc_of_ret h
    | seByte | sneByte | seReg | sneReg =>
      cases h
      simp only [skipIf_pc, beq_iff_eq, bne_iff_ne]
    | skp x | sknp x => exact pc_of_skipOnKey h
    | ldVxK x => exact pc_of_ldVxK h
    | bcd x | storeRegs x => rw [storeChecked_frame h]
    | loadRegs x => rw [eq_of_exec_loadRegs h, loadBlock_pc]
    | cls | ldByte | addByte | ldReg | orReg | andReg | xorReg | addReg | subReg | shr | subnReg | shl | ldI | rnd | drw
    | ldVxDt | ldDtVx | ldStVx | addI | ldF => cases h; rfl

/-! ### Updates that the instructions with more than one outcome neither see nor undo -/

/-- An update of fields that are neither read nor written by the instructions with more than one outcome. -/
structure Inert (f : State → State) : Prop where
  v : ∀ s, (f s).v = s.v
  i : ∀ s, (f s).i = s.i
  sp : ∀ s, (f s).sp = s.sp
  keys : ∀ s, (f s).keys = s.keys
  enterFault : ∀ s c, (f s).enterFault c = f (s.enterFault c)
  storeBytes : ∀ s base xs, (f s).storeBytes base xs = f (s.storeBytes base xs)
  skipIf : ∀ s c, (f s).skipIf c = f (s.skipIf c)
  setV : ∀ s x b, (f s).setV x b = f (s.setV x b)
  goBack : ∀ s, { f s with pc := (f s).pc - 2 } = f { s with pc := s.pc - 2 }
  pop : ∀ s p (j : Fin 16), { f s with sp := p, pc := (f s).stack[j] } = f { s with sp := p, pc := s.stack[j] }
  push : ∀ s (j : Fin 16) p q, { f s with stack := (f s).stack.set j (f s).pc, sp := p, pc := q } =
    f { s with stack := s.stack.set j s.pc, sp := p, pc := q }

section
variable {f : State → State} (hf : Inert f)
include hf

theorem Inert.getV (s : State) (x : RegIdx) : (f s).getV x = s.getV x :=
  congrArg (fun v : Vector Byte 16 => v[x]) (hf.v s)

theorem Inert.regBlock (s : State) (x : RegIdx) : (f s).regBlock x = s.regBlock x :=
  congrArg (fun v : Vector Byte 16 => v.toList.take (x.val + 1)) (hf.v s)

theorem Inert.exec_ret (s : State) : exec .ret (f s) = mapNext f (exec .ret s) := by
  rcases sp_empty_or_top s with h | ⟨j, h⟩
  · rw [exec_ret_empty h, exec_ret_empty ((congrArg _ (hf.sp s)).trans h), hf.enterFault]
    rfl
  · rw [exec_ret_pop h, exec_ret_pop ((congrArg _ (hf.sp s)).trans h), hf.pop]
    rfl

theorem Inert.exec_call (nnn : Addr12) (s : State) : exec (.call nnn) (f s) = mapNext f (exec (.call nnn) s) := by
  rcases sp_room_or_full s with h | h
  · have hpush := hf.push s ⟨s.sp.val, h⟩ ⟨s.sp.val + 1, Nat.succ_lt_succ h⟩ (zextAddr nnn)
    rw [exec_call_push h, exec_call_push ((congrArg Fin.val (hf.sp s)).trans_lt h)]
    simp only [hf.sp s]
    exact congrArg Host.Outcome.next hpush
  · rw [exec_call_full h, exec_call_full ((congrArg _ (hf.sp s)).trans h), hf.enterFault]
    rfl

theorem Inert.skipOnKey (x : RegIdx) (p : Bool) (s : State) :
    skipOnKey x p (f s) = mapNext f (skipOnKey x p s) := by
  rcases byte_no_key_or_key (s.getV x) with h | ⟨k, h⟩
  · rw [skipOnKey_no_key h, skipOnKey_no_key ((hf.getV s x).symm ▸ h), hf.getV, hf.enterFault]
    rfl
  · rw [skipOnKey_key h, skipOnKey_key ((hf.getV s x).symm ▸ h), hf.keys, hf.skipIf]
    rfl

theorem Inert.storeChecked (base : Nat) (xs : List Byte) (s : State) :
    storeChecked base xs (f s) = mapNext f (storeChecked base xs s) := by
  cases h : firstFontTarget base xs.length with
  | some b => rw [storeChecked_font h, storeChecked_font h, hf.enterFault]; rfl
  | none => rw [storeChecked_outside_font h, storeChecked_outside_font h, hf.storeBytes]; rfl

theorem Inert.exec_of_mayFault {i : Instr} (hi : MayFault i) (s : State) :
    exec i (f s) = mapNext f (exec i s) := by
  rcases hi with rfl | ⟨nnn, rfl⟩ | ⟨x, rfl⟩ | ⟨x, rfl⟩ | ⟨x, rfl⟩ | ⟨x, rfl⟩
  · exact hf.exec_ret s
  · exact hf.exec_call nnn s
  · show Machine.storeChecked (f s).i.toNat (decimalDigits ((f s).getV x)) (f s) = _
    rw [hf.i, hf.getV]
    exact hf.storeChecked _ _ s
  · show Machine.storeChecked (f s).i.toNat ((f s).regBlock x) (f s) = _
    rw [hf.i, hf.regBlock]
    exact hf.storeChecked _ _ s
  · exact hf.skipOnKey x true s
  · exact hf.skipOnKey x false s

theorem Inert.exec_ldVxK (x : RegIdx) (s : State) : exec (.ldVxK x) (f s) = mapNext f (exec (.ldVxK x) s) := by
  cases h : leastKey s.keys with
  | some k =>
    rw [exec_ldVxK_pressed h, exec_ldVxK_pressed ((congrArg leastKey (hf.keys s)).trans h), hf.setV]
    rfl
  | none =>
    rw [exec_ldVxK_wait h, exec_ldVxK_wait ((congrArg leastKey (hf.keys s)).trans h), hf.goBack]
    rfl

end

/-! ### The three updates -/

theorem inert_st (z : Byte) : Inert fun s => { s with st := z } := by
  constructor <;> intros <;> rfl

theorem inert_cycleByte_draws (r : Option Byte) (d : Nat) : Inert fun s => { s with cycleByte := r, draws := d } := by
  constructor <;> intros <;> rfl

theorem inert_drwClearsVf (b : Bool) : Inert fun s => { s with params := { s.params with drwClearsVf := b } } := by
  constructor <;> intros <;> rfl

/-! ### The obligations -/

/-- Settles O52: the instructions with more than one outcome by `Inert`, and any other by its own equation. -/
theorem soundTimerIsNeverRead : Obligations.SoundTimerIsNeverRead := by
  intro i s z
  have hf := inert_st z
  cases i with
  | ret | call | bcd | storeRegs | skp | sknp => exact hf.exec_of_mayFault (by simp [MayFault]) s
  | ldVxK x => exact hf.exec_ldVxK x s
  | _ => rfl

/-- Settles O53: the instructions with more than one outcome by `Inert`, and any other but RND by its own equation. -/
theorem onlyRndReadsTheByte : Obligations.OnlyRndReadsTheByte := by
  intro i s r d hrnd
  have hf := inert_cycleByte_draws r d
  cases i with
  | ret | call | bcd | storeRegs | skp | sknp => exact hf.exec_of_mayFault (by simp [MayFault]) s
  | ldVxK x => exact hf.exec_ldVxK x s
  | rnd x kk => exact absurd rfl (hrnd x kk)
  | _ => rfl

/-- Settles O21: the instructions with more than one outcome by `Inert`, and any other but DRW by its own equation. -/
theorem onlyDrawReadsDrwClearsVf : Obligations.OnlyDrawReadsDrwClearsVf := by
  intro i s b hdrw
  have hf := inert_drwClearsVf b
  cases i with
  | ret | call | bcd | storeRegs | skp | sknp => exact hf.exec_of_mayFault (by simp [MayFault]) s
  | ldVxK x => exact hf.exec_ldVxK x s
  | drw x y n => exact absurd rfl (hdrw x y n)
  | _ => rfl

end Sys2Proof.Machine
end
